-- ==== Sys2Proof/Word.lean ====
section
/-! DEFINITION. The word types of ZTCC: port words, bytes, and the residues the field unit and the
Poly1305 stage hold (00_scope.md R10). -/

namespace Sys2Proof

/-- A port word, a command word, an ARG, a ChaCha20 or a SHA-256 word: `u32` of R10. -/
abbrev Word := BitVec 32

/-- One byte of DBUF or of a byte string (R11). -/
abbrev Byte := BitVec 8

/-- A field register index, or a ChaCha20 word index: four bits of the command word (R104). -/
abbrev Idx := Fin 16

/-- The field prime p = 2^255 − 19, as R140 writes it out. -/
def p : Nat := 0x7FFFFFFFFFFFFFFFFFFFFFFFFFFFFFFFFFFFFFFFFFFFFFFFFFFFFFFFFFFFFFED

/-- The Poly1305 prime p130 = 2^130 − 5 (R210). -/
def p130 : Nat := 0x3FFFFFFFFFFFFFFFFFFFFFFFFFFFFFFFB

/-- A field element: an integer in [0, p), the exact residue (R20, R140). -/
abbrev Fe := Fin p

/-- A Poly1305 accumulator value: an integer in [0, p130), the exact residue (R25, R210). -/
abbrev Ph := Fin p130

theorem p_pos : 0 < p := by decide
theorem p130_pos : 0 < p130 := by decide

/-- The field element 0, every field register's reset value (R20). -/
def feZero : Fe := ⟨0, p_pos⟩

/-- The Poly1305 residue 0, the reset value of PH (R25). -/
def phZero : Ph := ⟨0, p130_pos⟩

/-- The word with a truth value in bit 0 and zeros above. -/
def bitWord (b : Bool) : Word := if b then 1#32 else 0#32

end Sys2Proof
end

