-- ==== Sys2Proof/Machine/Bytes.lean ====
section
/-! DEFINITION. Byte strings and their encodings (00_scope.md R11): the one place where byte order is
decided. -/

namespace Sys2Proof.Machine

/-- LE(B) = Σ B[i]·256^i (R11). -/
def leNat : List Byte → Nat
  | [] => 0
  | b :: bs => b.toNat + 256 * leNat bs

/-- BE(B) = Σ B[i]·256^(len−1−i) (R11). -/
def beNat (bs : List Byte) : Nat := leNat bs.reverse

/-- LE_n(v): the n-byte little-endian encoding of v mod 256^n (R11). -/
def leBytes : Nat → Nat → List Byte
  | 0, _ => []
  | n + 1, v => BitVec.ofNat 8 v :: leBytes n (v / 256)

/-- BE_n(v): the n-byte big-endian encoding of v mod 256^n (R11). -/
def beBytes (n v : Nat) : List Byte := (leBytes n v).reverse

/-- zeros(n) (R11). -/
def zeros (n : Nat) : List Byte := List.replicate n 0#8

/-- B[a..b): the bytes a to b − 1 (R11). -/
def slice (bs : List Byte) (a b : Nat) : List Byte := (bs.drop a).take (b - a)

/-- Bytewise exclusive or of two strings, as long as the shorter (R10). -/
def xorBytes (as bs : List Byte) : List Byte := List.zipWith (· ^^^ ·) as bs

/-- Σ over the string of byte or: 0 exactly when every byte is 0; every byte is visited (R133). -/
def orBytes (bs : List Byte) : Byte := bs.foldl (· ||| ·) 0#8

/-- The chunks of at most `n` bytes of a string, in order: `k` of them. -/
def chunks (n : Nat) : Nat → List Byte → List (List Byte)
  | 0, _ => []
  | k + 1, bs => bs.take n :: chunks n k (bs.drop n)

/-- ⌈a/b⌉. -/
def ceilDiv (a b : Nat) : Nat := (a + b - 1) / b

/-- A byte string of 32 as a 32-byte register; a missing byte is 0. -/
def toReg32 (bs : List Byte) : Vector Byte 32 := Vector.ofFn fun i => bs.getD i 0#8

end Sys2Proof.Machine
end

