-- ==== Sys2Proof/Config.lean ====
section
/-! DEFINITION. What one implementation fixes: the parameters of 00_scope.md R9 and the hardwired
identity values. The one parameter the spec leaves open without a value is ZTCC_BASE
(93_implementation_defined.md S7), a constant with no body: nothing can be proved of its value. No command
can observe a value the spec leaves open, so there is no other free value here. -/

namespace Sys2Proof.Config

/-- `ID` reads 0x5A544343, ASCII "ZTCC" (R4, R33). -/
def idValue : Word := 0x5A544343#32

/-- `VERSION` reads 0x00010000 (R4, R34). -/
def versionValue : Word := 0x00010000#32

/-- The value of the parameter DBUF_SIZE in ZTCC-1.0 (R9, R39). -/
def dbufSizeDefault : Nat := 4096

/-- The values of DBUF_SIZE that R9 allows: a multiple of 64 between 256 and 2^20. -/
abbrev LegalDbufSize (n : Nat) : Prop := n % 64 = 0 ∧ 256 ≤ n ∧ n ≤ 2 ^ 20

/-- ZTCC_BASE, where the platform places the port in the host's address space (R78; S7 of
93_implementation_defined.md: a parameter; log 5). -/
opaque ztccBase : BitVec 32

/-- The longest HKDF output, 255 · 32 bytes (R273). -/
def hkdfMaxLength : Nat := 8160

end Sys2Proof.Config
end

