-- ==== Sys2Proof/Machine/State.lean ====
section
/-! DEFINITION. The state of ZTCC: everything 10_state.md and 20_memory.md give the machine, as plain
data, and its value after reset (10_state.md R45). INVENTORY.md lists each field with its rule. -/

namespace Sys2Proof.Machine

/-- Why the machine would stop with a fault. There is no constructor: no ZTCC state stops or waits
forever, and every error is a completion with a code (60_exceptions.md R300, R306; the treatment
`stuck` "is never used", 93_implementation_defined.md). -/
inductive Fault where
  deriving DecidableEq, Repr

/-- Why an instruction would have no meaning. -/
inductive Refusal where
  /-- Raised by an arm of `exec` whose instruction has no meaning yet (safe). No arm raises it now. -/
  | notModelled (mnemonic : String)
  deriving DecidableEq, Repr

/-- The error codes of STATUS.ERRCODE (R300); "the values 0x08 to 0xFF are never produced". -/
inductive ErrCode where
  | ok | opcode | field | length | bounds | overlap | sequence | auth
  deriving DecidableEq, Repr

/-- DBUF's contents: the bytes that differ from 0x00, by offset, the offsets strictly rising. An
unlisted offset reads as 0x00, the reset value of every DBUF byte (R45, R70). -/
abbrev Memory := List Host.Cell

/-- The six sequencing flags of R28, readable in STATUS[21:16]. -/
structure SeqFlags where
  ccKeyed       : Bool
  pKeyed        : Bool
  shaActive     : Bool
  prkValid      : Bool
  xScalarValid  : Bool
  xLadderActive : Bool
  deriving DecidableEq, Repr

/-- All six flags 0, as after reset and `zeroize` (R28, R131). -/
def SeqFlags.clear : SeqFlags := ⟨false, false, false, false, false, false⟩

/-- One access of the host port (R30), at an address of the host's own address space: ZTCC_BASE plus the
port address (R78, log 5). -/
inductive PortAccess where
  | read (addr : BitVec 32)
  | write (addr data : BitVec 32) (strobe : BitVec 4)
  deriving DecidableEq, Repr

/-- One entry of the total event order (20_memory.md R80): a host access, a turn of the core (at which
a running command completes), or the hardware reset input RST (70_reset_and_hazards.md R340). -/
inductive Turn where
  | host (a : PortAccess)
  | core
  | hardReset
  deriving DecidableEq, Repr

structure State where
  /-- FE[0..15] (R20). -/
  fe       : Vector Fe 16
  /-- SCALAR, a clamped scalar (R22). -/
  scalar   : BitVec 256
  /-- SWAP, the running swap flag (R22). -/
  swap     : Bool
  /-- S0[0..15], the ChaCha20 initial state; S0[12] is CC_CTR (R23, R40). -/
  s0       : Vector Word 16
  /-- X[0..15], the ChaCha20 working matrix (R24). -/
  x        : Vector Word 16
  /-- PR, the clamped r (R25, R211). -/
  pr       : BitVec 128
  /-- PS, the pad s (R25). -/
  ps       : BitVec 128
  /-- PH, the accumulator (R25). -/
  ph       : Ph
  /-- SH[0..7], the chaining words (R26). -/
  sh       : Vector Word 8
  /-- BLEN, the message length in bits (R26, R264). -/
  blen     : BitVec 64
  /-- PB, the partial-block buffer, 0 to 63 bytes (R26). -/
  pb       : List Byte
  /-- W[0..63], the message schedule (R27). -/
  w        : Vector Word 64
  /-- WV[0..7], the working variables a to h (R27). -/
  wv       : Vector Word 8
  /-- PRK, the HKDF pseudorandom key (R32). -/
  prk      : Vector Byte 32
  /-- The sequencing flags (R28). -/
  flags    : SeqFlags
  /-- CTRL.IE (R35). -/
  ie       : Bool
  /-- STATUS.BUSY (R36). -/
  busy     : Bool
  /-- STATUS.DONE (R36). -/
  done     : Bool
  /-- STATUS.HOSTERR (R36, R310). -/
  hostErr  : Bool
  /-- STATUS.ERRCODE (R36, R300). -/
  errCode  : ErrCode
  /-- CMD, the last accepted command word (R37). -/
  cmd      : Word
  /-- RESULT bit 0; bits 31:1 always read 0 (R38). -/
  result   : Bool
  /-- ARG0..ARG7 (R41). -/
  args     : Vector Word 8
  /-- The hardwired DBUF_SIZE (R9, R39). -/
  dbufSize : Nat
  /-- DBUF (R70). -/
  dbuf     : Memory
  /-- RDATA as the latest port read answered it (R30): the model's record of an output. -/
  rdata    : Word
  /-- The events to come, oldest first (R80): the model's own field. -/
  schedule : List Turn
  deriving DecidableEq, Repr

/-- The state after a hardware or a soft reset (R45, R340), with the DBUF_SIZE of ZTCC-1.0 and no event
to come. The values of `rdata` and `schedule` are the model's (DESIGN CHOICE, log 1 and log 3). -/
def State.reset : State where
  fe       := Vector.replicate 16 feZero
  scalar   := 0#256
  swap     := false
  s0       := Vector.replicate 16 0#32
  x        := Vector.replicate 16 0#32
  pr       := 0#128
  ps       := 0#128
  ph       := phZero
  sh       := Vector.replicate 8 0#32
  blen     := 0#64
  pb       := []
  w        := Vector.replicate 64 0#32
  wv       := Vector.replicate 8 0#32
  prk      := Vector.replicate 32 0#8
  flags    := .clear
  ie       := false
  busy     := false
  done     := false
  hostErr  := false
  errCode  := .ok
  cmd      := 0#32
  result   := false
  args     := Vector.replicate 8 0#32
  dbufSize := Config.dbufSizeDefault
  dbuf     := []
  rdata    := 0#32
  schedule := []

end Sys2Proof.Machine
end

