-- ==== Sys2Proof/Machine/Ops.lean ====
section
/-! DEFINITION. The named operations over DBUF and the registers, and the three events every command
shares: acceptance (60_exceptions.md R304), completion (R306; with a code other than OK it is this
machine's way of taking an exception) and reset (70_reset_and_hazards.md R340). -/

namespace Sys2Proof.Machine

/-! ### DBUF (20_memory.md R70, R74) -/

/-- The byte at an offset; an unlisted offset holds 0x00 (R45). -/
def Memory.readByte : Memory → Nat → Byte
  | [], _ => 0#8
  | (k, v) :: m, a => if k = a then v else Memory.readByte m a

/-- Store one byte, keeping the canonical form: storing 0x00 removes the entry. -/
def Memory.writeByte : Memory → Nat → Byte → Memory
  | [], a, b => if b = 0#8 then [] else [(a, b)]
  | (k, v) :: m, a, b =>
    if a < k then (if b = 0#8 then (k, v) :: m else (a, b) :: (k, v) :: m)
    else if a = k then (if b = 0#8 then m else (a, b) :: m)
    else (k, v) :: Memory.writeByte m a b

/-- The bytes at offsets a to a + n − 1. -/
def Memory.readBytes (m : Memory) (a n : Nat) : List Byte :=
  (List.range n).map fun i => m.readByte (a + i)

/-- Store a byte string from offset a on. -/
def Memory.writeBytes : Memory → Nat → List Byte → Memory
  | m, _, [] => m
  | m, a, b :: bs => (m.writeByte a b).writeBytes (a + 1) bs

/-- The canonical form: offsets strictly rising, no entry equal to what an unlisted offset reads as. -/
abbrev Memory.wf (m : Memory) : Prop := m.Pairwise (·.1 < ·.1) ∧ ∀ c ∈ m, c.2 ≠ 0#8

/-- Every listed offset lies below `n` (R70: DBUF has offsets 0 to DBUF_SIZE − 1). -/
abbrev Memory.below (m : Memory) (n : Nat) : Prop := ∀ c ∈ m, c.1 < n

/-- MemRead(addr, n) (00_scope.md R12). -/
def State.memRead (s : State) (addr n : Nat) : List Byte := s.dbuf.readBytes addr n

/-- MemWrite(addr, n, B) with n = len(B) (R12). -/
def State.memWrite (s : State) (addr : Nat) (bs : List Byte) : State :=
  { s with dbuf := s.dbuf.writeBytes addr bs }

/-! ### Registers -/

/-- FE[i] <- v (R12). -/
def State.setFe (s : State) (i : Idx) (v : Fe) : State := { s with fe := s.fe.set i v }

/-- ARGn as an unsigned number (30_encoding.md R104). -/
def State.arg (s : State) (n : Fin 8) : Nat := s.args[n].toNat

/-! ### Acceptance, completion and reset -/

/-- Acceptance of a command word, one event (R304). HOSTERR and RESULT keep their values. -/
def State.accept (s : State) (w : Word) : State :=
  { s with cmd := w, errCode := .ok, done := false, busy := true }

/-- Completion with a code, one event (R306). With a code other than OK this is "the trap entry of this
hardware" (R303): it saves nothing beyond CMD and ARG0–ARG7, which keep what ran. -/
def State.complete (s : State) (e : ErrCode) : State :=
  { s with errCode := e, busy := false, done := true }

/-- The host's end of an error episode other than a new acceptance: DONE cleared, so that IRQ drops;
ERRCODE keeps its value (R308). -/
def State.clearDone (s : State) : State := { s with done := false }

/-- Reset, hardware or soft, as one event: every piece of state at the value of R45. The hardwired
DBUF_SIZE keeps its value, and so do the events to come, which are the host's (R340, R341). -/
def State.toReset (s : State) : State :=
  { State.reset with dbufSize := s.dbufSize, schedule := s.schedule }

end Sys2Proof.Machine
end

