-- ==== Sys2Proof/Syntax.lean ====
section
/-! DEFINITION. The 47 commands of 30_encoding.md R106, one constructor per row of the opcode table,
with the fields their class uses (R102). -/

namespace Sys2Proof

inductive Instr where
  -- 40_control.md
  | nop
  | zeroize
  | memzero
  | ctEq
  -- 41_field.md: a = FA (destination), b = FB, c = FC
  | feLoad (a : Idx)
  | feStore (b : Idx)
  | feSeti (a : Idx)
  | feMov (a b : Idx)
  | feAdd (a b c : Idx)
  | feSub (a b c : Idx)
  | feMul (a b c : Idx)
  | feSqr (a b : Idx)
  | feMula24 (a b : Idx)
  | feInv (a b : Idx)
  | feCswap (a b : Idx)
  -- 42_x25519.md: t = IMM8
  | xLdscalar
  | xInit (b : Idx)
  | xStep (t : Fin 256)
  | xFinish (a : Idx)
  | x25519
  | xKeygen
  -- 43_chacha20.md: word indices FA to FD
  | ccInit
  | ccQr (a b c d : Idx)
  | ccDround
  | ccLoadx
  | ccAddout
  | ccBlock
  | ccXor
  -- 44_poly1305.md
  | pKey
  | pAcc
  | pMul
  | pUpdate
  | pFinal
  | pMac
  -- 45_aead.md
  | aeadEnc
  | aeadDec
  -- 46_sha256.md: t = IMM8
  | shaInit
  | shaUpdate
  | shaFinal
  | shaLoadblk
  | shaRound (t : Fin 256)
  | shaFold
  | sha256
  -- 47_hmac_hkdf.md
  | hmac
  | hkdfExtract
  | hkdfExpand
  | hkdf
  deriving DecidableEq, Repr

end Sys2Proof
end

