-- ==== Sys2Proof/Machine/Operands.lean ====
section
/-! DEFINITION. The operands of every command and the checks made on them: the opcode map of
30_encoding.md R106 with the in-place pairs of 20_memory.md R73, the bounds and overlap rules R72 and
R73, and the order of the checks, 60_exceptions.md R305. -/

namespace Sys2Proof.Machine

/-- A region: the DBUF bytes [addr, addr + len) (00_scope.md R14). -/
structure Region where
  addr : Nat
  len  : Nat
  deriving DecidableEq, Repr

/-- "A region with len = 0 is always in bounds … A region with len > 0 is in bounds exactly when
addr + len ≤ DBUF_SIZE, computed on unbounded integers" (R72). -/
def Region.inBounds (r : Region) (size : Nat) : Bool := r.len = 0 ∨ r.addr + r.len ≤ size

/-- "Two regions overlap when both have len > 0 and they share at least one byte" (R73). -/
def Region.overlaps (r q : Region) : Bool :=
  0 < r.len ∧ 0 < q.len ∧ r.addr < q.addr + q.len ∧ q.addr < r.addr + r.len

/-- What the checks of R305 look at, after the opcode is known. -/
structure Checks where
  /-- The field check that the width of the field does not make: IMM8 of `sha.round` (R103). -/
  fieldOk    : Bool := true
  /-- The length operands are in the command's legal range (R301). -/
  lengthOk   : Bool := true
  /-- The input regions, in the order of R106. -/
  ins        : List Region := []
  /-- The output regions, in the order of R106. -/
  outs       : List Region := []
  /-- The in-place pair: the positions of its input in `ins` and its output in `outs` (R73). -/
  inPlace    : Option (Nat × Nat) := none
  /-- Every sequencing flag the command needs is 1 (R28). -/
  sequenceOk : Bool := true
  deriving DecidableEq, Repr

/-- Every region of the command is in bounds (R72). -/
def Checks.inBounds (c : Checks) (size : Nat) : Bool := (c.ins ++ c.outs).all (·.inBounds size)

/-- The overlap rule of R73 is broken: (a) two outputs overlap, or (b) an output overlaps an input, and
they are not the in-place pair with identical regions. -/
def Checks.overlapBroken (c : Checks) : Bool :=
  (c.outs.zipIdx.any fun q => c.outs.zipIdx.any fun r => q.2 < r.2 ∧ q.1.overlaps r.1) ||
  (c.ins.zipIdx.any fun r => c.outs.zipIdx.any fun q =>
    r.1.overlaps q.1 ∧ ¬(c.inPlace = some (r.2, q.2) ∧ r.1 = q.1))

/-- The first failed check, in the order of R305; `none` when the body runs. -/
def Checks.failure (c : Checks) (size : Nat) : Option ErrCode :=
  if !c.fieldOk then some .field
  else if !c.lengthOk then some .length
  else if !c.inBounds size then some .bounds
  else if c.overlapBroken then some .overlap
  else if !c.sequenceOk then some .sequence
  else none

/-- The region (ARGa, n) of a fixed length (R105). -/
def State.fixed (s : State) (a : Fin 8) (n : Nat) : Region := ⟨s.arg a, n⟩

/-- The region (ARGa, ARGn) (R105). -/
def State.sized (s : State) (a n : Fin 8) : Region := ⟨s.arg a, s.arg n⟩

/-- The columns "in", "out" and "needs" of R106, the in-place pairs of R73 and the length limits of
R301, for every command. -/
def commandChecks (i : Instr) (s : State) : Checks :=
  match i with
  | .nop => {}
  | .zeroize => {}
  | .memzero => { outs := [s.sized 0 1] }
  | .ctEq => { ins := [s.sized 0 2, s.sized 1 2] }
  | .feLoad _ => { ins := [s.fixed 0 32] }
  | .feStore _ => { outs := [s.fixed 0 32] }
  | .feSeti _ => {}
  | .feMov _ _ => {}
  | .feAdd _ _ _ => {}
  | .feSub _ _ _ => {}
  | .feMul _ _ _ => {}
  | .feSqr _ _ => {}
  | .feMula24 _ _ => {}
  | .feInv _ _ => {}
  | .feCswap _ _ => {}
  | .xLdscalar => { ins := [s.fixed 0 32] }
  | .xInit _ => {}
  | .xStep _ => { sequenceOk := s.flags.xScalarValid && s.flags.xLadderActive }
  | .xFinish _ => { sequenceOk := s.flags.xLadderActive }
  | .x25519 => { ins := [s.fixed 0 32, s.fixed 1 32], outs := [s.fixed 2 32], inPlace := some (1, 0) }
  | .xKeygen => { ins := [s.fixed 0 32], outs := [s.fixed 1 32, s.fixed 2 32], inPlace := some (0, 0) }
  | .ccInit => { ins := [s.fixed 0 32, s.fixed 1 12] }
  | .ccQr _ _ _ _ => { sequenceOk := s.flags.ccKeyed }
  | .ccDround => { sequenceOk := s.flags.ccKeyed }
  | .ccLoadx => { sequenceOk := s.flags.ccKeyed }
  | .ccAddout => { outs := [s.fixed 0 64], sequenceOk := s.flags.ccKeyed }
  | .ccBlock => { outs := [s.fixed 0 64], sequenceOk := s.flags.ccKeyed }
  | .ccXor => { ins := [s.sized 0 2], outs := [s.sized 1 2], inPlace := some (0, 0),
                sequenceOk := s.flags.ccKeyed }
  | .pKey => { ins := [s.fixed 0 32] }
  | .pAcc => { lengthOk := 1 ≤ s.arg 1 ∧ s.arg 1 ≤ 16, ins := [s.sized 0 1],
               sequenceOk := s.flags.pKeyed }
  | .pMul => { sequenceOk := s.flags.pKeyed }
  | .pUpdate => { ins := [s.sized 0 1], sequenceOk := s.flags.pKeyed }
  | .pFinal => { outs := [s.fixed 0 16], sequenceOk := s.flags.pKeyed }
  | .pMac => { ins := [s.fixed 0 32, s.sized 1 2], outs := [s.fixed 3 16] }
  | .aeadEnc => { ins := [s.fixed 0 32, s.fixed 1 12, s.sized 2 3, s.sized 4 5],
                  outs := [s.sized 6 5, s.fixed 7 16], inPlace := some (3, 0) }
  | .aeadDec => { ins := [s.fixed 0 32, s.fixed 1 12, s.sized 2 3, s.sized 4 5, s.fixed 7 16],
                  outs := [s.sized 6 5], inPlace := some (3, 0) }
  | .shaInit => {}
  | .shaUpdate => { ins := [s.sized 0 1], sequenceOk := s.flags.shaActive }
  | .shaFinal => { outs := [s.fixed 0 32], sequenceOk := s.flags.shaActive }
  | .shaLoadblk => { ins := [s.fixed 0 64], sequenceOk := s.flags.shaActive }
  | .shaRound t => { fieldOk := t.val < 64, sequenceOk := s.flags.shaActive }
  | .shaFold => { sequenceOk := s.flags.shaActive }
  | .sha256 => { ins := [s.sized 0 1], outs := [s.fixed 2 32] }
  | .hmac => { ins := [s.sized 0 1, s.sized 2 3], outs := [s.fixed 4 32] }
  | .hkdfExtract => { ins := [s.sized 0 1, s.sized 2 3] }
  | .hkdfExpand => { lengthOk := s.arg 3 ≤ Config.hkdfMaxLength, ins := [s.sized 0 1],
                     outs := [s.sized 2 3], sequenceOk := s.flags.prkValid }
  | .hkdf => { lengthOk := s.arg 7 ≤ Config.hkdfMaxLength,
               ins := [s.sized 0 1, s.sized 2 3, s.sized 4 5], outs := [s.sized 6 7] }

/-- The first failed check of an accepted command (R305). -/
def checkFailure (i : Instr) (s : State) : Option ErrCode := (commandChecks i s).failure s.dbufSize

/-- Run an accepted command whose body ends with a code: at the first failed check the command completes
with that code and nothing else changes (R307); else the body's state completes with the body's code. -/
def runJudged (i : Instr) (s : State) (body : State × ErrCode) : Host.Outcome State Fault Refusal :=
  match checkFailure i s with
  | some e => .next (s.complete e)
  | none => .next (body.1.complete body.2)

/-- Run an accepted command whose body cannot fail: it completes with OK (R305, R306). -/
def runCommand (i : Instr) (s body : State) : Host.Outcome State Fault Refusal :=
  runJudged i s (body, .ok)

end Sys2Proof.Machine
end

