-- ==== Sys2Proof/Machine/ChaCha20.lean ====
section
/-! DEFINITION. The ChaCha20 quarter round, block generator and stream (43_chacha20.md R190 to R202). -/

namespace Sys2Proof.Machine

/-- A ChaCha20 matrix: 16 words (R191). -/
abbrev CcMatrix := Vector Word 16

/-- σ0 to σ3, "expand 32-byte k" as four little-endian words (R190). -/
def sigma : Vector Word 4 := #v[0x61707865#32, 0x3320646E#32, 0x79622D32#32, 0x6B206574#32]

/-- The i-th little-endian word of a string (R75). -/
def leWordAt (b : List Byte) (i : Nat) : Word := BitVec.ofNat 32 (leNat (slice b (4 * i) (4 * i + 4)))

/-- ChaChaInit(K, N, c) (R191). -/
def chaChaInit (key nonce : List Byte) (ctr : Word) : CcMatrix :=
  #v[sigma[0], sigma[1], sigma[2], sigma[3],
     leWordAt key 0, leWordAt key 1, leWordAt key 2, leWordAt key 3,
     leWordAt key 4, leWordAt key 5, leWordAt key 6, leWordAt key 7,
     ctr, leWordAt nonce 0, leWordAt nonce 1, leWordAt nonce 2]

/-- One line of the quarter round: X[a] <- X[a] + X[b]; X[d] <- rotl32(X[d] ⊕ X[a], n) (R192). -/
def qrLine (x : CcMatrix) (a b d : Idx) (n : Nat) : CcMatrix :=
  let y := x.set a (x[a] + x[b])
  y.set d ((y[d] ^^^ y[a]).rotateLeft n)

/-- QR(X, a, b, c, d): the four lines in order, each reading what the one before wrote, on aliased words
too (R192). -/
def quarterRound (x : CcMatrix) (a b c d : Idx) : CcMatrix :=
  let x1 := qrLine x a b d 16
  let x2 := qrLine x1 c d b 12
  let x3 := qrLine x2 a b d 8
  qrLine x3 c d b 7

/-- DR(X): four column quarter rounds, then four diagonal ones (R193). -/
def doubleRound (x : CcMatrix) : CcMatrix :=
  let x := quarterRound x 0 4 8 12
  let x := quarterRound x 1 5 9 13
  let x := quarterRound x 2 6 10 14
  let x := quarterRound x 3 7 11 15
  let x := quarterRound x 0 5 10 15
  let x := quarterRound x 1 6 11 12
  let x := quarterRound x 2 7 8 13
  quarterRound x 3 4 9 14

/-- n double rounds. -/
def doubleRounds : Nat → CcMatrix → CcMatrix
  | 0, x => x
  | n + 1, x => doubleRounds n (doubleRound x)

/-- Serialize(X, S): the words X[i] + S[i], little-endian, in order (R195). -/
def serialize (x s : CcMatrix) : List Byte :=
  (List.zipWith (fun a b => leBytes 4 (a + b).toNat) x.toList s.toList).flatten

/-- Block(S): ten double rounds; the post-round matrix and the serialized output (R194, C7). -/
def chaChaBlock (s : CcMatrix) : CcMatrix × List Byte :=
  let x := doubleRounds 10 s
  (x, serialize x s)

/-- The block counter advanced by one, mod 2^32 (R203). -/
def bumpCounter (s : CcMatrix) : CcMatrix := s.set 12 (s[12] + 1#32)

/-- What a run of the stream leaves: S0, X and the output bytes (R202). -/
structure StreamRun where
  s0  : CcMatrix
  x   : CcMatrix
  out : List Byte
  deriving DecidableEq, Repr

/-- `n` blocks of the stream over an input (R202): each block XORed with up to 64 bytes, the counter
advanced after each, the last partial block too. -/
def streamRun : Nat → CcMatrix → CcMatrix → List Byte → StreamRun
  | 0, s0, x, _ => ⟨s0, x, []⟩
  | n + 1, s0, _, inp =>
    let b := chaChaBlock s0
    let r := streamRun n (bumpCounter s0) b.1 (inp.drop 64)
    ⟨r.s0, r.x, xorBytes (inp.take 64) b.2 ++ r.out⟩

/-- The stream over the whole of an input: ⌈len/64⌉ blocks (R202). -/
def stream (s0 x : CcMatrix) (inp : List Byte) : StreamRun := streamRun (ceilDiv inp.length 64) s0 x inp

/-- `cc.init` (R196). -/
def execCcInit (s : State) : Host.Outcome State Fault Refusal :=
  let m := chaChaInit (s.memRead (s.arg 0) 32) (s.memRead (s.arg 1) 12) s.args[2]
  runCommand .ccInit s { s with s0 := m, x := m, flags := { s.flags with ccKeyed := true } }

/-- `cc.qr a, b, c, d` (R197). -/
def execCcQr (a b c d : Idx) (s : State) : Host.Outcome State Fault Refusal :=
  runCommand (.ccQr a b c d) s { s with x := quarterRound s.x a b c d }

/-- `cc.dround` (R198). -/
def execCcDround (s : State) : Host.Outcome State Fault Refusal :=
  runCommand .ccDround s { s with x := doubleRound s.x }

/-- `cc.loadx` (R199). -/
def execCcLoadx (s : State) : Host.Outcome State Fault Refusal :=
  runCommand .ccLoadx s { s with x := s.s0 }

/-- `cc.addout`: X is unchanged (R200). -/
def execCcAddout (s : State) : Host.Outcome State Fault Refusal :=
  runCommand .ccAddout s
    { s.memWrite (s.arg 0) (serialize s.x s.s0) with s0 := bumpCounter s.s0 }

/-- `cc.block`: X keeps the post-round state (R201). -/
def execCcBlock (s : State) : Host.Outcome State Fault Refusal :=
  let b := chaChaBlock s.s0
  runCommand .ccBlock s { s.memWrite (s.arg 0) b.2 with x := b.1, s0 := bumpCounter s.s0 }

/-- `cc.xor` (R202). -/
def execCcXor (s : State) : Host.Outcome State Fault Refusal :=
  let r := stream s.s0 s.x (s.memRead (s.arg 0) (s.arg 2))
  runCommand .ccXor s { s.memWrite (s.arg 1) r.out with s0 := r.s0, x := r.x }

end Sys2Proof.Machine
end

