-- ==== Sys2Proof/Machine/Poly1305.lean ====
section
/-! DEFINITION. The Poly1305 accumulator and multiplier (44_poly1305.md R210 to R219). -/

namespace Sys2Proof.Machine

/-- The residue in [0, p130) (R210). -/
def phOf (x : Nat) : Ph := ⟨x % p130, Nat.mod_lt _ p130_pos⟩

/-- The clamp mask on r (R211). -/
def polyClampMask : BitVec 128 := 0x0FFFFFFC0FFFFFFC0FFFFFFC0FFFFFFF#128

/-- PR of a 32-byte key: LE(k[0..16)) & the mask (R211). -/
def polyR (k : List Byte) : BitVec 128 := BitVec.ofNat 128 (leNat (slice k 0 16)) &&& polyClampMask

/-- PS of a 32-byte key: LE(k[16..32)) (R211). -/
def polyS (k : List Byte) : BitVec 128 := BitVec.ofNat 128 (leNat (slice k 16 32))

/-- n(c) = LE(c) + 2^(8·|c|) (R212). -/
def polyBlockValue (c : List Byte) : Nat := leNat c + 2 ^ (8 * c.length)

/-- The accumulator stage: (h + n(c)) mod p130 (R214). -/
def polyAcc (h : Ph) (c : List Byte) : Ph := phOf (h.val + polyBlockValue c)

/-- The multiplier stage: (h · r) mod p130 (R215). -/
def polyMul (h : Ph) (r : BitVec 128) : Ph := phOf (h.val * r.toNat)

/-- Accumulate and multiply over the 16-byte chunks of a message, a short last chunk too (R216). -/
def polyUpdate (r : BitVec 128) (h : Ph) (m : List Byte) : Ph :=
  (chunks 16 (ceilDiv m.length 16) m).foldl (fun h c => polyMul (polyAcc h c) r) h

/-- LE_16((h + s) mod 2^128) (R217). -/
def polyTag (h : Ph) (s : BitVec 128) : List Byte := leBytes 16 ((h.val + s.toNat) % 2 ^ 128)

/-- The Poly1305 function of a 32-byte key and a message (R219). -/
def poly1305 (k m : List Byte) : List Byte := polyTag (polyUpdate (polyR k) phZero m) (polyS k)

/-- `p.key` (R213). -/
def execPKey (s : State) : Host.Outcome State Fault Refusal :=
  let k := s.memRead (s.arg 0) 32
  runCommand .pKey s
    { s with pr := polyR k, ps := polyS k, ph := phZero, flags := { s.flags with pKeyed := true } }

/-- `p.acc` (R214). -/
def execPAcc (s : State) : Host.Outcome State Fault Refusal :=
  runCommand .pAcc s { s with ph := polyAcc s.ph (s.memRead (s.arg 0) (s.arg 1)) }

/-- `p.mul` (R215). -/
def execPMul (s : State) : Host.Outcome State Fault Refusal :=
  runCommand .pMul s { s with ph := polyMul s.ph s.pr }

/-- `p.update` (R216). -/
def execPUpdate (s : State) : Host.Outcome State Fault Refusal :=
  runCommand .pUpdate s { s with ph := polyUpdate s.pr s.ph (s.memRead (s.arg 0) (s.arg 1)) }

/-- `p.final`: the key is single-use (R217). -/
def execPFinal (s : State) : Host.Outcome State Fault Refusal :=
  runCommand .pFinal s
    { s.memWrite (s.arg 0) (polyTag s.ph s.ps) with
      pr := 0#128, ps := 0#128, ph := phZero, flags := { s.flags with pKeyed := false } }

/-- `p.mac`, on private scratch (R218). -/
def execPMac (s : State) : Host.Outcome State Fault Refusal :=
  runCommand .pMac s
    (s.memWrite (s.arg 3) (poly1305 (s.memRead (s.arg 0) 32) (s.memRead (s.arg 1) (s.arg 2))))

end Sys2Proof.Machine
end

