-- ==== Sys2Proof/Machine/Aead.lean ====
section
/-! DEFINITION. AEAD ChaCha20-Poly1305 (45_aead.md R230 to R233), one-shot on private scratch. -/

namespace Sys2Proof.Machine

/-- OTK(K, N): the first 32 bytes of the block at counter 0 (R230). -/
def otk (key nonce : List Byte) : List Byte := (chaChaBlock (chaChaInit key nonce 0#32)).2.take 32

/-- pad16(n) = (16 − n mod 16) mod 16 (R231). -/
def pad16 (n : Nat) : Nat := (16 - n % 16) % 16

/-- MacData(A, C) (R231). -/
def macData (a c : List Byte) : List Byte :=
  a ++ zeros (pad16 a.length) ++ c ++ zeros (pad16 c.length) ++
    leBytes 8 a.length ++ leBytes 8 c.length

/-- A message XORed with the keystream from counter 1 (R232, R233). -/
def aeadCrypt (key nonce m : List Byte) : List Byte :=
  let s := chaChaInit key nonce 1#32
  (stream s s m).out

/-- The tag over associated data and ciphertext (R232). -/
def aeadTag (key nonce a c : List Byte) : List Byte := poly1305 (otk key nonce) (macData a c)

/-- `aead.enc` (R232). -/
def execAeadEnc (s : State) : Host.Outcome State Fault Refusal :=
  let key := s.memRead (s.arg 0) 32
  let nonce := s.memRead (s.arg 1) 12
  let aad := s.memRead (s.arg 2) (s.arg 3)
  let ct := aeadCrypt key nonce (s.memRead (s.arg 4) (s.arg 5))
  runCommand .aeadEnc s
    ((s.memWrite (s.arg 6) ct).memWrite (s.arg 7) (aeadTag key nonce aad ct))

/-- `aead.dec` (R233): no plaintext byte is written unless all 16 tag bytes agree (R235); E_AUTH writes
RESULT only (R307). -/
def execAeadDec (s : State) : Host.Outcome State Fault Refusal :=
  let key := s.memRead (s.arg 0) 32
  let nonce := s.memRead (s.arg 1) 12
  let aad := s.memRead (s.arg 2) (s.arg 3)
  let ct := s.memRead (s.arg 4) (s.arg 5)
  let tag := s.memRead (s.arg 7) 16
  let d := orBytes (xorBytes (aeadTag key nonce aad ct) tag)
  runJudged .aeadDec s
    (if d = 0#8 then ({ s.memWrite (s.arg 6) (aeadCrypt key nonce ct) with result := false }, .ok)
     else ({ s with result := true }, .auth))

end Sys2Proof.Machine
end

