-- ==== Sys2Proof/Machine/Control.lean ====
section
/-! DEFINITION. Control and constant-time utility commands (40_control.md R130 to R133). -/

namespace Sys2Proof.Machine

/-- The effect of `zeroize` (R131): every register file and internal state and all flags; not DBUF, ARG,
CTRL, RESULT or CMD. -/
def State.zeroized (s : State) : State :=
  { s with
    fe := Vector.replicate 16 feZero, scalar := 0#256, swap := false,
    s0 := Vector.replicate 16 0#32, x := Vector.replicate 16 0#32,
    pr := 0#128, ps := 0#128, ph := phZero,
    sh := Vector.replicate 8 0#32, blen := 0#64, pb := [],
    w := Vector.replicate 64 0#32, wv := Vector.replicate 8 0#32,
    prk := Vector.replicate 32 0#8, flags := .clear }

/-- `nop`: nothing (R130). -/
def execNop (s : State) : Host.Outcome State Fault Refusal := runCommand .nop s s

/-- `zeroize` (R131). -/
def execZeroize (s : State) : Host.Outcome State Fault Refusal := runCommand .zeroize s s.zeroized

/-- `memzero`: MemWrite(ARG0, ARG1, zeros(ARG1)) (R132). -/
def execMemzero (s : State) : Host.Outcome State Fault Refusal :=
  runCommand .memzero s (s.memWrite (s.arg 0) (zeros (s.arg 1)))

/-- `ct.eq`: RESULT <- 0 if the regions are equal, else 1; every byte is visited (R133, C5). -/
def execCtEq (s : State) : Host.Outcome State Fault Refusal :=
  let a := s.memRead (s.arg 0) (s.arg 2)
  let b := s.memRead (s.arg 1) (s.arg 2)
  runCommand .ctEq s { s with result := orBytes (xorBytes a b) ≠ 0#8 }

end Sys2Proof.Machine
end

