-- ==== Sys2Proof/Machine/Field.lean ====
section
/-! DEFINITION. The field arithmetic unit, GF(2^255 − 19) (41_field.md R140 to R154): exact integer
results reduced into [0, p), whatever limbs an implementation uses (R141, C1). -/

namespace Sys2Proof.Machine

/-- The residue in [0, p) (R140). -/
def feOf (x : Nat) : Fe := ⟨x % p, Nat.mod_lt _ p_pos⟩

/-- (a + b) mod p (R148). -/
def feAdd (a b : Fe) : Fe := feOf (a.val + b.val)

/-- (a − b) mod p, in [0, p) (R149). -/
def feSub (a b : Fe) : Fe := feOf (a.val + (p - b.val))

/-- (a · b) mod p (R150). -/
def feMul (a b : Fe) : Fe := feOf (a.val * b.val)

/-- a24 = 121665 (R152, C2). -/
def a24 : Nat := 121665

/-- (121665 · a) mod p (R152). -/
def feMulA24 (a : Fe) : Fe := feOf (a24 * a.val)

/-- z^e mod p for e < 2^n, by repeated squaring (a chain as R156 allows; log 12). -/
def fePow (z : Fe) : Nat → Nat → Fe
  | 0, _ => feOf 1
  | n + 1, e =>
    let h := fePow (feMul z z) n (e / 2)
    if e % 2 = 1 then feMul z h else h

/-- z^(p−2) mod p (R153). -/
def feInv (z : Fe) : Fe := fePow z 255 (p - 2)

/-- FromBytes(B) = (LE(B) mod 2^255) mod p (R142). -/
def fromBytes (b : List Byte) : Fe := feOf (leNat b % 2 ^ 255)

/-- ToBytes(v) = LE_32(v) (R143). -/
def toBytes (v : Fe) : List Byte := leBytes 32 v.val

/-- CSwap(c, a, b): (b, a) if c = 1, else (a, b) (R171). -/
def cswap (c : Bool) (a b : Fe) : Fe × Fe := if c then (b, a) else (a, b)

/-- `fe.load fA` (R144). -/
def execFeLoad (a : Idx) (s : State) : Host.Outcome State Fault Refusal :=
  runCommand (.feLoad a) s (s.setFe a (fromBytes (s.memRead (s.arg 0) 32)))

/-- `fe.store fB` (R145). -/
def execFeStore (b : Idx) (s : State) : Host.Outcome State Fault Refusal :=
  runCommand (.feStore b) s (s.memWrite (s.arg 0) (toBytes s.fe[b]))

/-- `fe.seti fA`: FE[A] <- zext(ARG0) (R146). -/
def execFeSeti (a : Idx) (s : State) : Host.Outcome State Fault Refusal :=
  runCommand (.feSeti a) s (s.setFe a (feOf (s.arg 0)))

/-- `fe.mov fA, fB` (R147). -/
def execFeMov (a b : Idx) (s : State) : Host.Outcome State Fault Refusal :=
  runCommand (.feMov a b) s (s.setFe a s.fe[b])

/-- `fe.add fA, fB, fC` (R148). -/
def execFeAdd (a b c : Idx) (s : State) : Host.Outcome State Fault Refusal :=
  runCommand (.feAdd a b c) s (s.setFe a (feAdd s.fe[b] s.fe[c]))

/-- `fe.sub fA, fB, fC` (R149). -/
def execFeSub (a b c : Idx) (s : State) : Host.Outcome State Fault Refusal :=
  runCommand (.feSub a b c) s (s.setFe a (feSub s.fe[b] s.fe[c]))

/-- `fe.mul fA, fB, fC` (R150). -/
def execFeMul (a b c : Idx) (s : State) : Host.Outcome State Fault Refusal :=
  runCommand (.feMul a b c) s (s.setFe a (feMul s.fe[b] s.fe[c]))

/-- `fe.sqr fA, fB` (R151). -/
def execFeSqr (a b : Idx) (s : State) : Host.Outcome State Fault Refusal :=
  runCommand (.feSqr a b) s (s.setFe a (feMul s.fe[b] s.fe[b]))

/-- `fe.mula24 fA, fB` (R152). -/
def execFeMula24 (a b : Idx) (s : State) : Host.Outcome State Fault Refusal :=
  runCommand (.feMula24 a b) s (s.setFe a (feMulA24 s.fe[b]))

/-- `fe.inv fA, fB`; no error for zero (R153). -/
def execFeInv (a b : Idx) (s : State) : Host.Outcome State Fault Refusal :=
  runCommand (.feInv a b) s (s.setFe a (feInv s.fe[b]))

/-- `fe.cswap fA, fB`: the condition is ARG0[0], ARG0[31:1] are ignored (R154). -/
def execFeCswap (a b : Idx) (s : State) : Host.Outcome State Fault Refusal :=
  let q := cswap (s.args[0].getLsbD 0) s.fe[a] s.fe[b]
  runCommand (.feCswap a b) s ((s.setFe a q.1).setFe b q.2)

end Sys2Proof.Machine
end

