-- ==== Sys2Proof/Machine/Sha256.lean ====
section
/-! DEFINITION. The SHA-256 round function and streaming hash (46_sha256.md R250 to R263). -/

namespace Sys2Proof.Machine

/-- Eight words: a chaining value or the working variables a to h (R26, R27). -/
abbrev Hash := Vector Word 8

/-- The message schedule W[0..63] (R27). -/
abbrev Schedule := Vector Word 64

/-- Ch(x, y, z) (R250). -/
def shaCh (x y z : Word) : Word := (x &&& y) ^^^ (~~~x &&& z)
/-- Maj(x, y, z) (R250). -/
def shaMaj (x y z : Word) : Word := (x &&& y) ^^^ (x &&& z) ^^^ (y &&& z)
/-- Σ0 (R250). -/
def shaBigSigma0 (x : Word) : Word := x.rotateRight 2 ^^^ x.rotateRight 13 ^^^ x.rotateRight 22
/-- Σ1 (R250). -/
def shaBigSigma1 (x : Word) : Word := x.rotateRight 6 ^^^ x.rotateRight 11 ^^^ x.rotateRight 25
/-- σ0 (R250). -/
def shaSmallSigma0 (x : Word) : Word := x.rotateRight 7 ^^^ x.rotateRight 18 ^^^ (x >>> 3)
/-- σ1 (R250). -/
def shaSmallSigma1 (x : Word) : Word := x.rotateRight 17 ^^^ x.rotateRight 19 ^^^ (x >>> 10)

/-- K[0..31] (R251), four rows of eight. -/
def shaKLow : Vector Word 32 :=
  #v[0x428a2f98#32, 0x71374491#32, 0xb5c0fbcf#32, 0xe9b5dba5#32, 0x3956c25b#32, 0x59f111f1#32, 0x923f82a4#32, 0xab1c5ed5#32,
     0xd807aa98#32, 0x12835b01#32, 0x243185be#32, 0x550c7dc3#32, 0x72be5d74#32, 0x80deb1fe#32, 0x9bdc06a7#32, 0xc19bf174#32,
     0xe49b69c1#32, 0xefbe4786#32, 0x0fc19dc6#32, 0x240ca1cc#32, 0x2de92c6f#32, 0x4a7484aa#32, 0x5cb0a9dc#32, 0x76f988da#32,
     0x983e5152#32, 0xa831c66d#32, 0xb00327c8#32, 0xbf597fc7#32, 0xc6e00bf3#32, 0xd5a79147#32, 0x06ca6351#32, 0x14292967#32]

/-- K[32..63] (R251), four rows of eight. -/
def shaKHigh : Vector Word 32 :=
  #v[0x27b70a85#32, 0x2e1b2138#32, 0x4d2c6dfc#32, 0x53380d13#32, 0x650a7354#32, 0x766a0abb#32, 0x81c2c92e#32, 0x92722c85#32,
     0xa2bfe8a1#32, 0xa81a664b#32, 0xc24b8b70#32, 0xc76c51a3#32, 0xd192e819#32, 0xd6990624#32, 0xf40e3585#32, 0x106aa070#32,
     0x19a4c116#32, 0x1e376c08#32, 0x2748774c#32, 0x34b0bcb5#32, 0x391c0cb3#32, 0x4ed8aa4a#32, 0x5b9cca4f#32, 0x682e6ff3#32,
     0x748f82ee#32, 0x78a5636f#32, 0x84c87814#32, 0x8cc70208#32, 0x90befffa#32, 0xa4506ceb#32, 0xbef9a3f7#32, 0xc67178f2#32]

/-- K[0..63] (R251). -/
def shaK : Schedule := shaKLow ++ shaKHigh

/-- H0[0..7] (R252). -/
def shaH0 : Hash :=
  #v[0x6a09e667#32, 0xbb67ae85#32, 0x3c6ef372#32, 0xa54ff53a#32, 0x510e527f#32, 0x9b05688c#32, 0x1f83d9ab#32, 0x5be0cd19#32]

/-- The i-th big-endian word of a string (R253). -/
def beWordAt (b : List Byte) (i : Nat) : Word := BitVec.ofNat 32 (beNat (slice b (4 * i) (4 * i + 4)))

/-- One word of the schedule: W[t] from the four words before it, t = i + 16 (R253). -/
def scheduleStep (w : Schedule) (i : Fin 48) : Schedule :=
  w.set (i.val + 16)
    (shaSmallSigma1 w[i.val + 14] + w[i.val + 9] + shaSmallSigma0 w[i.val + 1] + w[i.val])

/-- The message schedule of a 64-byte block (R253): W[0..15] its words, then W[16..63] in order. -/
def shaSchedule (b : List Byte) : Schedule :=
  (List.finRange 48).foldl scheduleStep
    (Vector.ofFn fun t : Fin 64 => if t.val < 16 then beWordAt b t.val else 0#32)

/-- Round t (R254). -/
def shaRound (v : Hash) (t : Fin 64) (w : Schedule) : Hash :=
  let t1 := v[7] + shaBigSigma1 v[4] + shaCh v[4] v[5] v[6] + shaK[t] + w[t]
  let t2 := shaBigSigma0 v[0] + shaMaj v[0] v[1] v[2]
  #v[t1 + t2, v[0], v[1], v[2], v[3] + t1, v[4], v[5], v[6]]

/-- H[i] + V[i] for i = 0..7 (R255, R262). -/
def hashAdd (h v : Hash) : Hash := Vector.zipWith (· + ·) h v

/-- Rounds 0 to 63 in order (R255). -/
def shaRounds (v : Hash) (w : Schedule) : Hash := (List.finRange 64).foldl (fun v t => shaRound v t w) v

/-- Compress(H, B) (R255). -/
def shaCompress (h : Hash) (b : List Byte) : Hash := hashAdd h (shaRounds h (shaSchedule b))

/-- Compress over every whole 64-byte block of a string, in order (R256, R258). -/
def shaAbsorb (h : Hash) (d : List Byte) : Hash := (chunks 64 (d.length / 64) d).foldl shaCompress h

/-- The number of zero bytes of the padding after a tail of L bytes: (55 − L) mod 64 (R256). -/
def shaPadZeros (l : Nat) : Nat := ((55 - (l : Int)) % 64).toNat

/-- 0x80 ‖ zeros(k) ‖ BE_8(bits), the padding after a tail of L bytes (R256, R259). -/
def shaPadding (l bits : Nat) : List Byte := [0x80#8] ++ zeros (shaPadZeros l) ++ beBytes 8 bits

/-- BE_4(H[0]) ‖ … ‖ BE_4(H[7]) (R256). -/
def shaDigest (h : Hash) : List Byte := h.toList.flatMap fun w => beBytes 4 w.toNat

/-- SHA256(M) (R256). -/
def sha256 (m : List Byte) : List Byte :=
  shaDigest (shaAbsorb shaH0 (m ++ shaPadding m.length (8 * m.length % 2 ^ 64)))

/-- W and WV zeroed, as `sha.init`, `sha.update` and `sha.final` leave them (R257 to R259). -/
def State.zeroRoundStage (s : State) : State :=
  { s with w := Vector.replicate 64 0#32, wv := Vector.replicate 8 0#32 }

/-- `sha.init` (R257). -/
def execShaInit (s : State) : Host.Outcome State Fault Refusal :=
  runCommand .shaInit s
    { s.zeroRoundStage with
      sh := shaH0, blen := 0#64, pb := [], flags := { s.flags with shaActive := true } }

/-- `sha.update`: BLEN counts bits mod 2^64 (R258, R264, C10). -/
def execShaUpdate (s : State) : Host.Outcome State Fault Refusal :=
  let d := s.pb ++ s.memRead (s.arg 0) (s.arg 1)
  runCommand .shaUpdate s
    { s.zeroRoundStage with
      sh := shaAbsorb s.sh d, blen := s.blen + BitVec.ofNat 64 (8 * s.arg 1)
      pb := d.drop (64 * (d.length / 64)) }

/-- `sha.final`: the whole context is zeroed (R259). -/
def execShaFinal (s : State) : Host.Outcome State Fault Refusal :=
  let h := shaAbsorb s.sh (s.pb ++ shaPadding s.pb.length s.blen.toNat)
  runCommand .shaFinal s
    { (s.memWrite (s.arg 0) (shaDigest h)).zeroRoundStage with
      sh := Vector.replicate 8 0#32, blen := 0#64, pb := []
      flags := { s.flags with shaActive := false } }

/-- `sha.loadblk`: BLEN and PB are not changed (R260). -/
def execShaLoadblk (s : State) : Host.Outcome State Fault Refusal :=
  runCommand .shaLoadblk s { s with w := shaSchedule (s.memRead (s.arg 0) 64), wv := s.sh }

/-- `sha.round t` (R261); the check on t is part of `commandChecks` (R305), so the modulus below never
changes a t the body runs with. -/
def execShaRound (t : Fin 256) (s : State) : Host.Outcome State Fault Refusal :=
  runCommand (.shaRound t) s
    { s with wv := shaRound s.wv ⟨t.val % 64, Nat.mod_lt _ (by decide)⟩ s.w }

/-- `sha.fold`: WV is unchanged (R262). -/
def execShaFold (s : State) : Host.Outcome State Fault Refusal :=
  runCommand .shaFold s { s with sh := hashAdd s.sh s.wv }

/-- `sha256`, on private scratch (R263). -/
def execSha256 (s : State) : Host.Outcome State Fault Refusal :=
  runCommand .sha256 s (s.memWrite (s.arg 2) (sha256 (s.memRead (s.arg 0) (s.arg 1))))

end Sys2Proof.Machine
end

