-- ==== Sys2Proof/Machine/HmacHkdf.lean ====
section
/-! DEFINITION. HMAC-SHA256 and HKDF (47_hmac_hkdf.md R270 to R276). -/

namespace Sys2Proof.Machine

/-- K0: a key over 64 bytes hashed first, then padded with zeros to 64 bytes (R270). -/
def hmacKey (k : List Byte) : List Byte :=
  if 64 < k.length then sha256 k ++ zeros 32 else k ++ zeros (64 - k.length)

/-- K0 with every byte XORed with a pad constant (R270). -/
def hmacPad (k : List Byte) (c : Byte) : List Byte := (hmacKey k).map (· ^^^ c)

/-- HMAC(K, M) (R270). -/
def hmac (k m : List Byte) : List Byte :=
  sha256 (hmacPad k 0x5c#8 ++ sha256 (hmacPad k 0x36#8 ++ m))

/-- Extract(salt, IKM); an empty salt stands for 32 zero bytes (R272). -/
def hkdfExtract (salt ikm : List Byte) : List Byte :=
  hmac (if salt.length = 0 then zeros 32 else salt) ikm

/-- T(i) ‖ T(i+1) ‖ …, `n` of them, after T(i−1) = `t` (R273). -/
def hkdfBlocks (prk info : List Byte) : Nat → Nat → List Byte → List Byte
  | 0, _, _ => []
  | n + 1, i, t =>
    let t' := hmac prk (t ++ info ++ [BitVec.ofNat 8 i])
    t' ++ hkdfBlocks prk info n (i + 1) t'

/-- Expand(PRK, info, L): the first L bytes of T(1) ‖ … ‖ T(⌈L/32⌉) (R273). -/
def hkdfExpand (prk info : List Byte) (l : Nat) : List Byte :=
  (hkdfBlocks prk info (ceilDiv l 32) 1 []).take l

/-- `hmac` (R271). -/
def execHmac (s : State) : Host.Outcome State Fault Refusal :=
  runCommand .hmac s
    (s.memWrite (s.arg 4) (hmac (s.memRead (s.arg 0) (s.arg 1)) (s.memRead (s.arg 2) (s.arg 3))))

/-- `hkdf.extract`: nothing is written to DBUF (R274). -/
def execHkdfExtract (s : State) : Host.Outcome State Fault Refusal :=
  runCommand .hkdfExtract s
    { s with
      prk := toReg32 (hkdfExtract (s.memRead (s.arg 0) (s.arg 1)) (s.memRead (s.arg 2) (s.arg 3)))
      flags := { s.flags with prkValid := true } }

/-- `hkdf.expand`: the PRK is consumed, for L = 0 too (R275). -/
def execHkdfExpand (s : State) : Host.Outcome State Fault Refusal :=
  runCommand .hkdfExpand s
    { s.memWrite (s.arg 2)
        (hkdfExpand s.prk.toList (s.memRead (s.arg 0) (s.arg 1)) (s.arg 3)) with
      prk := Vector.replicate 32 0#8, flags := { s.flags with prkValid := false } }

/-- `hkdf`, one-shot on private scratch (R276). -/
def execHkdf (s : State) : Host.Outcome State Fault Refusal :=
  let prk := hkdfExtract (s.memRead (s.arg 2) (s.arg 3)) (s.memRead (s.arg 0) (s.arg 1))
  runCommand .hkdf s
    (s.memWrite (s.arg 6) (hkdfExpand prk (s.memRead (s.arg 4) (s.arg 5)) (s.arg 7)))

end Sys2Proof.Machine
end

