-- ==== Sys2Proof/Machine/X25519.lean ====
section
/-! DEFINITION. The X25519 ladder stage and scalar multiplication (42_x25519.md R170 to R179). -/

namespace Sys2Proof.Machine

/-- Clamp(K) (R170, C3): byte 0 &= 0xF8, byte 31 &= 0x7F, byte 31 |= 0x40. -/
def clamp (k : List Byte) : List Byte :=
  (k.modify 0 (· &&& 0xF8#8)).modify 31 fun b => (b &&& 0x7F#8) ||| 0x40#8

/-- The clamped scalar k = LE(Clamp(K)) (R170), as SCALAR holds it (R22). -/
def clampedScalar (k : List Byte) : BitVec 256 := BitVec.ofNat 256 (leNat (clamp k))

/-- The ladder's values: x1, the pairs x2:z2 and x3:z3, and the swap flag (R172). -/
structure Ladder where
  x1   : Fe
  x2   : Fe
  z2   : Fe
  x3   : Fe
  z3   : Fe
  swap : Bool
  deriving DecidableEq, Repr

/-- One ladder step on a scalar bit (R172). -/
def ladderStep (l : Ladder) (kt : Bool) : Ladder :=
  let swap := l.swap ^^ kt
  let xs := cswap swap l.x2 l.x3
  let zs := cswap swap l.z2 l.z3
  let a := feAdd xs.1 zs.1
  let aa := feMul a a
  let b := feSub xs.1 zs.1
  let bb := feMul b b
  let e := feSub aa bb
  let c := feAdd xs.2 zs.2
  let d := feSub xs.2 zs.2
  let da := feMul d a
  let cb := feMul c b
  { x1 := l.x1
    x3 := feMul (feAdd da cb) (feAdd da cb)
    z3 := feMul l.x1 (feMul (feSub da cb) (feSub da cb))
    x2 := feMul aa bb
    z2 := feMul e (feAdd aa (feMulA24 e))
    swap := kt }

/-- The ladder's start for a u-coordinate (R173, R175). -/
def ladderInit (u : Fe) : Ladder := ⟨u, feOf 1, feOf 0, u, feOf 1, false⟩

/-- The steps for the bits n − 1 down to 0 of the scalar, highest first (R173). -/
def ladderRun (k : BitVec 256) : Nat → Ladder → Ladder
  | 0, l => l
  | n + 1, l => ladderRun k n (ladderStep l (k.getLsbD n))

/-- The last swap, executed always and exchanging only if the flag is set (R173, C4). -/
def ladderSettle (l : Ladder) : Ladder :=
  let xs := cswap l.swap l.x2 l.x3
  let zs := cswap l.swap l.z2 l.z3
  { l with x2 := xs.1, x3 := xs.2, z2 := zs.1, z3 := zs.2 }

/-- x2 · z2^(p−2) mod p (R173, R177). -/
def ladderOut (l : Ladder) : Fe := feMul l.x2 (feInv l.z2)

/-- X25519(K, U) for 32-byte strings (R173). -/
def x25519 (k u : List Byte) : List Byte :=
  toBytes (ladderOut (ladderSettle (ladderRun (clampedScalar k) 255 (ladderInit (fromBytes u)))))

/-- The fixed base point u = 9 (R178). -/
def basePoint : List Byte := leBytes 32 9

/-- The ladder held in FE[0..4] and SWAP (10_state.md R22). -/
def State.ladder (s : State) : Ladder := ⟨s.fe[0], s.fe[1], s.fe[2], s.fe[3], s.fe[4], s.swap⟩

/-- FE[0..4] and SWAP <- the ladder's values (R22). -/
def State.setLadder (s : State) (l : Ladder) : State :=
  { s with
    fe := ((((s.fe.set 0 l.x1).set 1 l.x2).set 2 l.z2).set 3 l.x3).set 4 l.z3
    swap := l.swap }

/-- `x.ldscalar` (R174). -/
def execXLdscalar (s : State) : Host.Outcome State Fault Refusal :=
  runCommand .xLdscalar s
    { s with scalar := clampedScalar (s.memRead (s.arg 0) 32)
             flags := { s.flags with xScalarValid := true } }

/-- `x.init fB`: u is read first (R175). -/
def execXInit (b : Idx) (s : State) : Host.Outcome State Fault Refusal :=
  runCommand (.xInit b) s
    { s.setLadder (ladderInit s.fe[b]) with flags := { s.flags with xLadderActive := true } }

/-- `x.step t`: one ladder step on bit t of SCALAR (R176). -/
def execXStep (t : Fin 256) (s : State) : Host.Outcome State Fault Refusal :=
  runCommand (.xStep t) s (s.setLadder (ladderStep s.ladder (s.scalar.getLsbD t)))

/-- `x.finish fA`: FE[A] is written last; SCALAR, SWAP and both flags are cleared (R177). -/
def execXFinish (a : Idx) (s : State) : Host.Outcome State Fault Refusal :=
  let l := ladderSettle s.ladder
  runCommand (.xFinish a) s
    { (s.setLadder l).setFe a (ladderOut l) with
      scalar := 0#256, swap := false
      flags := { s.flags with xScalarValid := false, xLadderActive := false } }

/-- `x25519` (R179): no check on the output (R183). -/
def execX25519 (s : State) : Host.Outcome State Fault Refusal :=
  runCommand .x25519 s
    (s.memWrite (s.arg 2) (x25519 (s.memRead (s.arg 0) 32) (s.memRead (s.arg 1) 32)))

/-- `x.keygen` (R178): the private key written is the clamped one. -/
def execXKeygen (s : State) : Host.Outcome State Fault Refusal :=
  let k := clamp (s.memRead (s.arg 0) 32)
  runCommand .xKeygen s ((s.memWrite (s.arg 1) k).memWrite (s.arg 2) (x25519 k basePoint))

end Sys2Proof.Machine
end

