-- ==== Sys2Proof/Machine/Dispatch.lean ====
section
/-! DEFINITION. One arm per command of 30_encoding.md R106, each one direct call of its meaning: what the
core does with an accepted command, from the checks of 60_exceptions.md R305 to completion (R306). -/

namespace Sys2Proof.Machine

def exec (i : Instr) (s : State) : Host.Outcome State Fault Refusal :=
  match i with
  | .nop => Sys2Proof.Machine.execNop s
  | .zeroize => Sys2Proof.Machine.execZeroize s
  | .memzero => Sys2Proof.Machine.execMemzero s
  | .ctEq => Sys2Proof.Machine.execCtEq s
  | .feLoad a => Sys2Proof.Machine.execFeLoad a s
  | .feStore b => Sys2Proof.Machine.execFeStore b s
  | .feSeti a => Sys2Proof.Machine.execFeSeti a s
  | .feMov a b => Sys2Proof.Machine.execFeMov a b s
  | .feAdd a b c => Sys2Proof.Machine.execFeAdd a b c s
  | .feSub a b c => Sys2Proof.Machine.execFeSub a b c s
  | .feMul a b c => Sys2Proof.Machine.execFeMul a b c s
  | .feSqr a b => Sys2Proof.Machine.execFeSqr a b s
  | .feMula24 a b => Sys2Proof.Machine.execFeMula24 a b s
  | .feInv a b => Sys2Proof.Machine.execFeInv a b s
  | .feCswap a b => Sys2Proof.Machine.execFeCswap a b s
  | .xLdscalar => Sys2Proof.Machine.execXLdscalar s
  | .xInit b => Sys2Proof.Machine.execXInit b s
  | .xStep t => Sys2Proof.Machine.execXStep t s
  | .xFinish a => Sys2Proof.Machine.execXFinish a s
  | .x25519 => Sys2Proof.Machine.execX25519 s
  | .xKeygen => Sys2Proof.Machine.execXKeygen s
  | .ccInit => Sys2Proof.Machine.execCcInit s
  | .ccQr a b c d => Sys2Proof.Machine.execCcQr a b c d s
  | .ccDround => Sys2Proof.Machine.execCcDround s
  | .ccLoadx => Sys2Proof.Machine.execCcLoadx s
  | .ccAddout => Sys2Proof.Machine.execCcAddout s
  | .ccBlock => Sys2Proof.Machine.execCcBlock s
  | .ccXor => Sys2Proof.Machine.execCcXor s
  | .pKey => Sys2Proof.Machine.execPKey s
  | .pAcc => Sys2Proof.Machine.execPAcc s
  | .pMul => Sys2Proof.Machine.execPMul s
  | .pUpdate => Sys2Proof.Machine.execPUpdate s
  | .pFinal => Sys2Proof.Machine.execPFinal s
  | .pMac => Sys2Proof.Machine.execPMac s
  | .aeadEnc => Sys2Proof.Machine.execAeadEnc s
  | .aeadDec => Sys2Proof.Machine.execAeadDec s
  | .shaInit => Sys2Proof.Machine.execShaInit s
  | .shaUpdate => Sys2Proof.Machine.execShaUpdate s
  | .shaFinal => Sys2Proof.Machine.execShaFinal s
  | .shaLoadblk => Sys2Proof.Machine.execShaLoadblk s
  | .shaRound t => Sys2Proof.Machine.execShaRound t s
  | .shaFold => Sys2Proof.Machine.execShaFold s
  | .sha256 => Sys2Proof.Machine.execSha256 s
  | .hmac => Sys2Proof.Machine.execHmac s
  | .hkdfExtract => Sys2Proof.Machine.execHkdfExtract s
  | .hkdfExpand => Sys2Proof.Machine.execHkdfExpand s
  | .hkdf => Sys2Proof.Machine.execHkdf s

end Sys2Proof.Machine
end

