-- ==== Sys2Proof/WellFormed.lean ====
section
/-! DEFINITION. Which terms of `Instr` are commands the encoding admits. The widths of the fields are
in their types. The one further check is the round index of `sha.round` (30_encoding.md R103). -/

namespace Sys2Proof

/-- "IMM8 of `sha.round` must also be below 64 … No other field value is out of range" (R103). -/
def Instr.wellFormed : Instr → Bool
  | .shaRound t => decide (t.val < 64)
  | _ => true

/-- The same as a proposition. -/
abbrev Instr.WellFormed (i : Instr) : Prop := i.wellFormed = true

end Sys2Proof
end

