-- ==== Sys2Proof/Decode.lean ====
section
/-! DEFINITION. Reading a command word (30_encoding.md R101 to R107): total on every word, refusing by
name; and, after it, the encoder from the same tables. -/

namespace Sys2Proof

/-- Why a word is no command. -/
inductive DecodeError where
  /-- CMD[7:0] is a reserved OP value (R107): the command ends with E_OPCODE. -/
  | reservedOp
  /-- A field the class does not use is not zero, or `sha.round` has IMM8 ≥ 64 (R103): E_FIELD. -/
  | unusedField
  deriving DecidableEq, Repr

/-- The field-use classes of R102. -/
inductive FieldClass where
  | none | A | B | AB | ABC | ABCD | I
  deriving DecidableEq, Repr

namespace CmdField

/-- Bits `lo` to `lo + len − 1` of a word, as a number (R101, R104: zero-extended). -/
def bits (w : Word) (lo len : Nat) : Nat := w.toNat / 2 ^ lo % 2 ^ len

/-- OP = bits 7:0. -/
def op (w : Word) : Nat := bits w 0 8
/-- FA = bits 11:8. -/
def fa (w : Word) : Idx := ⟨bits w 8 4, Nat.mod_lt _ (by decide)⟩
/-- FB = bits 15:12. -/
def fb (w : Word) : Idx := ⟨bits w 12 4, Nat.mod_lt _ (by decide)⟩
/-- FC = bits 19:16. -/
def fc (w : Word) : Idx := ⟨bits w 16 4, Nat.mod_lt _ (by decide)⟩
/-- FD = bits 23:20. -/
def fd (w : Word) : Idx := ⟨bits w 20 4, Nat.mod_lt _ (by decide)⟩
/-- IMM8 = bits 31:24. -/
def imm8 (w : Word) : Fin 256 := ⟨bits w 24 8, Nat.mod_lt _ (by decide)⟩

end CmdField

/-- Every field the class does not use is zero (R102, R103). -/
def unusedZero (k : FieldClass) (a b c d : Idx) (t : Fin 256) : Bool :=
  match k with
  | .none => a = 0 ∧ b = 0 ∧ c = 0 ∧ d = 0 ∧ t = 0
  | .A    => b = 0 ∧ c = 0 ∧ d = 0 ∧ t = 0
  | .B    => a = 0 ∧ c = 0 ∧ d = 0 ∧ t = 0
  | .AB   => c = 0 ∧ d = 0 ∧ t = 0
  | .ABC  => d = 0 ∧ t = 0
  | .ABCD => t = 0
  | .I    => a = 0 ∧ b = 0 ∧ c = 0 ∧ d = 0

/-- The class and the command of each assigned OP, on the fields of its word (R106). `none` for a
reserved OP (R107). -/
def opcodeRow (op : Nat) (a b c d : Idx) (t : Fin 256) : Option (FieldClass × Instr) :=
  match op with
  | 0x00 => some (.none, .nop)
  | 0x01 => some (.none, .zeroize)
  | 0x02 => some (.none, .memzero)
  | 0x03 => some (.none, .ctEq)
  | 0x10 => some (.A, .feLoad a)
  | 0x11 => some (.B, .feStore b)
  | 0x12 => some (.A, .feSeti a)
  | 0x13 => some (.AB, .feMov a b)
  | 0x14 => some (.ABC, .feAdd a b c)
  | 0x15 => some (.ABC, .feSub a b c)
  | 0x16 => some (.ABC, .feMul a b c)
  | 0x17 => some (.AB, .feSqr a b)
  | 0x18 => some (.AB, .feMula24 a b)
  | 0x19 => some (.AB, .feInv a b)
  | 0x1A => some (.AB, .feCswap a b)
  | 0x20 => some (.none, .xLdscalar)
  | 0x21 => some (.B, .xInit b)
  | 0x22 => some (.I, .xStep t)
  | 0x23 => some (.A, .xFinish a)
  | 0x24 => some (.none, .x25519)
  | 0x25 => some (.none, .xKeygen)
  | 0x30 => some (.none, .ccInit)
  | 0x31 => some (.ABCD, .ccQr a b c d)
  | 0x32 => some (.none, .ccDround)
  | 0x33 => some (.none, .ccLoadx)
  | 0x34 => some (.none, .ccAddout)
  | 0x35 => some (.none, .ccBlock)
  | 0x36 => some (.none, .ccXor)
  | 0x40 => some (.none, .pKey)
  | 0x41 => some (.none, .pAcc)
  | 0x42 => some (.none, .pMul)
  | 0x43 => some (.none, .pUpdate)
  | 0x44 => some (.none, .pFinal)
  | 0x45 => some (.none, .pMac)
  | 0x50 => some (.none, .aeadEnc)
  | 0x51 => some (.none, .aeadDec)
  | 0x60 => some (.none, .shaInit)
  | 0x61 => some (.none, .shaUpdate)
  | 0x62 => some (.none, .shaFinal)
  | 0x63 => some (.none, .shaLoadblk)
  | 0x64 => some (.I, .shaRound t)
  | 0x65 => some (.none, .shaFold)
  | 0x66 => some (.none, .sha256)
  | 0x70 => some (.none, .hmac)
  | 0x71 => some (.none, .hkdfExtract)
  | 0x72 => some (.none, .hkdfExpand)
  | 0x73 => some (.none, .hkdf)
  | _ => none

/-- A command word as its six fields: the first two checks of R305, in their order. -/
def decodeFields (op : Nat) (a b c d : Idx) (t : Fin 256) : Except DecodeError Instr :=
  match opcodeRow op a b c d t with
  | none => .error .reservedOp
  | some (k, i) => if unusedZero k a b c d t && i.wellFormed then .ok i else .error .unusedField

open CmdField in
/-- The decoder. -/
def decode (w : Word) : Except DecodeError Instr :=
  decodeFields (op w) (fa w) (fb w) (fc w) (fd w) (imm8 w)

/-- `word = IMM8 << 24 | FD << 20 | FC << 16 | FB << 12 | FA << 8 | OP` (R101). The fields do not
overlap, so the bitwise or is their sum. -/
def packWord (op : Nat) (a b c d : Idx) (t : Fin 256) : Word :=
  BitVec.ofNat 32
    (t.val * 2 ^ 24 + d.val * 2 ^ 20 + c.val * 2 ^ 16 + b.val * 2 ^ 12 + a.val * 2 ^ 8 + op)

/-- The word of a command (R101, R106). -/
def encode : Instr → Word
  | .nop => packWord 0x00 0 0 0 0 0
  | .zeroize => packWord 0x01 0 0 0 0 0
  | .memzero => packWord 0x02 0 0 0 0 0
  | .ctEq => packWord 0x03 0 0 0 0 0
  | .feLoad a => packWord 0x10 a 0 0 0 0
  | .feStore b => packWord 0x11 0 b 0 0 0
  | .feSeti a => packWord 0x12 a 0 0 0 0
  | .feMov a b => packWord 0x13 a b 0 0 0
  | .feAdd a b c => packWord 0x14 a b c 0 0
  | .feSub a b c => packWord 0x15 a b c 0 0
  | .feMul a b c => packWord 0x16 a b c 0 0
  | .feSqr a b => packWord 0x17 a b 0 0 0
  | .feMula24 a b => packWord 0x18 a b 0 0 0
  | .feInv a b => packWord 0x19 a b 0 0 0
  | .feCswap a b => packWord 0x1A a b 0 0 0
  | .xLdscalar => packWord 0x20 0 0 0 0 0
  | .xInit b => packWord 0x21 0 b 0 0 0
  | .xStep t => packWord 0x22 0 0 0 0 t
  | .xFinish a => packWord 0x23 a 0 0 0 0
  | .x25519 => packWord 0x24 0 0 0 0 0
  | .xKeygen => packWord 0x25 0 0 0 0 0
  | .ccInit => packWord 0x30 0 0 0 0 0
  | .ccQr a b c d => packWord 0x31 a b c d 0
  | .ccDround => packWord 0x32 0 0 0 0 0
  | .ccLoadx => packWord 0x33 0 0 0 0 0
  | .ccAddout => packWord 0x34 0 0 0 0 0
  | .ccBlock => packWord 0x35 0 0 0 0 0
  | .ccXor => packWord 0x36 0 0 0 0 0
  | .pKey => packWord 0x40 0 0 0 0 0
  | .pAcc => packWord 0x41 0 0 0 0 0
  | .pMul => packWord 0x42 0 0 0 0 0
  | .pUpdate => packWord 0x43 0 0 0 0 0
  | .pFinal => packWord 0x44 0 0 0 0 0
  | .pMac => packWord 0x45 0 0 0 0 0
  | .aeadEnc => packWord 0x50 0 0 0 0 0
  | .aeadDec => packWord 0x51 0 0 0 0 0
  | .shaInit => packWord 0x60 0 0 0 0 0
  | .shaUpdate => packWord 0x61 0 0 0 0 0
  | .shaFinal => packWord 0x62 0 0 0 0 0
  | .shaLoadblk => packWord 0x63 0 0 0 0 0
  | .shaRound t => packWord 0x64 0 0 0 0 t
  | .shaFold => packWord 0x65 0 0 0 0 0
  | .sha256 => packWord 0x66 0 0 0 0 0
  | .hmac => packWord 0x70 0 0 0 0 0
  | .hkdfExtract => packWord 0x71 0 0 0 0 0
  | .hkdfExpand => packWord 0x72 0 0 0 0 0
  | .hkdf => packWord 0x73 0 0 0 0 0

/-- The command of an instruction numbered as the opcode table numbers it: every row is one 32-bit
word, so bits 31:0 of `w` are the command word and the table's bits above `nbits` are 0. -/
def decodeTableWord (nbits w : Nat) : Option Instr :=
  match decode (BitVec.ofNat 32 (w % 2 ^ nbits)) with
  | .ok i => some i
  | .error _ => none

end Sys2Proof
end

