-- ==== Sys2Proof/Machine/Flags.lean ====
section
/-! DEFINITION. ZTCC has no condition codes (10_state.md R43). Its flags are the bits of STATUS: this
file assembles STATUS, CTRL and RESULT as the port reads them, and gives the interrupt output and HOSTERR.
Which command sets or clears a sequencing flag (R28) stands in the command's meaning. -/

namespace Sys2Proof.Machine

/-- The number of an error code (60_exceptions.md R300). -/
def ErrCode.toNat : ErrCode → Nat
  | .ok => 0x00
  | .opcode => 0x01
  | .field => 0x02
  | .length => 0x03
  | .bounds => 0x04
  | .overlap => 0x05
  | .sequence => 0x06
  | .auth => 0x07

/-- STATUS as it reads (10_state.md R36, R28): BUSY 0, DONE 1, HOSTERR 2, ERRCODE 15:8, the sequencing
flags 21:16, every other bit 0. -/
def State.statusWord (s : State) : Word :=
  bitWord s.busy ||| bitWord s.done <<< 1 ||| bitWord s.hostErr <<< 2 |||
  BitVec.ofNat 32 s.errCode.toNat <<< 8 |||
  bitWord s.flags.ccKeyed <<< 16 ||| bitWord s.flags.pKeyed <<< 17 |||
  bitWord s.flags.shaActive <<< 18 ||| bitWord s.flags.prkValid <<< 19 |||
  bitWord s.flags.xScalarValid <<< 20 ||| bitWord s.flags.xLadderActive <<< 21

/-- CTRL as it reads: IE in bit 0, SRST and the reserved bits 0 (R35). -/
def State.ctrlWord (s : State) : Word := bitWord s.ie

/-- RESULT as it reads: bits 31:1 are 0 (R38). -/
def State.resultWord (s : State) : Word := bitWord s.result

/-- IRQ = CTRL.IE & STATUS.DONE, a level (60_exceptions.md R309). -/
def State.irq (s : State) : Bool := s.ie && s.done

/-- HOSTERR <- 1: the port rejected a host access (R310). -/
def State.setHostErr (s : State) : State := { s with hostErr := true }

end Sys2Proof.Machine
end

