-- ==== Sys2Proof/Machine/Port.lean ====
section
/-! DEFINITION. The host port: the address map (10_state.md R31, R42; 20_memory.md R78) and what each
access does (R87, R88), and the word the core is to run. -/

namespace Sys2Proof.Machine

/-- What a port address selects. -/
inductive PortTarget where
  | id | version | ctrl | status | cmd | result | dbufSize | ccCtr
  | arg (n : Fin 8)
  | dbuf (offset : Nat)
  | unmapped
  deriving DecidableEq, Repr

/-- The address with bits 1:0 ignored (R30, R76). -/
def wordAddress (addr : BitVec 32) : Nat := addr.toNat / 4 * 4

/-- The register at word number `k` of the register window (R31): 0x000 is word 0, ARG0 (0x020) word 8. -/
def registerAt (k : Nat) : PortTarget :=
  match k with
  | 0 => .id
  | 1 => .version
  | 2 => .ctrl
  | 3 => .status
  | 4 => .cmd
  | 5 => .result
  | 6 => .dbufSize
  | 7 => .ccCtr
  | 8 => .arg 0
  | 9 => .arg 1
  | 10 => .arg 2
  | 11 => .arg 3
  | 12 => .arg 4
  | 13 => .arg 5
  | 14 => .arg 6
  | 15 => .arg 7
  | _ => .unmapped

/-- The port address map: registers below 0x040, the DBUF window from 0x1000 for DBUF_SIZE bytes,
nothing elsewhere (R31, R42, R78). -/
def portTarget (size : Nat) (addr : BitVec 32) : PortTarget :=
  let a := wordAddress addr
  if a < 0x1000 then registerAt (a / 4)
  else if a < 0x1000 + size then .dbuf (a - 0x1000)
  else .unmapped

/-- The DBUF word at an offset, little-endian lanes (R74). -/
def State.dbufWord (s : State) (off : Nat) : Word := BitVec.ofNat 32 (leNat (s.memRead off 4))

/-- Store the byte lanes of `data` whose strobe is 1 (R74, R87). -/
def State.storeLanes (s : State) (off : Nat) (data : BitVec 32) (strobe : BitVec 4) : State :=
  (List.range 4).foldl
    (fun t i => if strobe.getLsbD i then t.memWrite (off + i) [data.extractLsb' (8 * i) 8] else t) s

/-- The word a read answers with (R87, R42): a register its value, DBUF its word or 0 while BUSY,
an unmapped address 0. -/
def State.readValue (s : State) (addr : BitVec 32) : Word :=
  match portTarget s.dbufSize addr with
  | .id => Config.idValue
  | .version => Config.versionValue
  | .ctrl => s.ctrlWord
  | .status => s.statusWord
  | .cmd => s.cmd
  | .result => s.resultWord
  | .dbufSize => BitVec.ofNat 32 s.dbufSize
  | .ccCtr => s.s0[12]
  | .arg n => s.args[n]
  | .dbuf off => if s.busy then 0#32 else s.dbufWord off
  | .unmapped => 0#32

/-- A port read. Only a DBUF read while BUSY has a side effect: HOSTERR (R77, R87). -/
def State.portRead (s : State) (addr : BitVec 32) : State :=
  let t := { s with rdata := s.readValue addr }
  match portTarget s.dbufSize addr with
  | .dbuf _ => if s.busy then t.setHostErr else t
  | _ => t

/-- A full-strobe write to a register (R35 to R41, R87). -/
def State.writeRegister (s : State) (target : PortTarget) (data : BitVec 32) : State :=
  match target with
  | .ctrl => if data.getLsbD 1 then s.toReset else { s with ie := data.getLsbD 0 }
  | .status =>
    let t := if data.getLsbD 1 then s.clearDone else s
    if data.getLsbD 2 then { t with hostErr := false } else t
  | .cmd => if s.busy then s.setHostErr else s.accept data
  | .arg n => if s.busy then s.setHostErr else { s with args := s.args.set n data }
  | _ => s

/-- A port write (R87). A register write whose strobe is not 0b1111 is ignored and sets HOSTERR,
whatever the register (R88); strobes select lanes in the DBUF window only. -/
def State.portWrite (s : State) (addr data : BitVec 32) (strobe : BitVec 4) : State :=
  match portTarget s.dbufSize addr with
  | .dbuf off => if s.busy then s.setHostErr else s.storeLanes off data strobe
  | .unmapped => s
  | target => if strobe = 0xF#4 then s.writeRegister target data else s.setHostErr

/-- The port address of a host address: "every port address of this spec is relative to" ZTCC_BASE (R78),
on the 32 address bits of R30 (log 5). -/
def portAddress (addr : BitVec 32) : BitVec 32 := addr - Config.ztccBase

/-- One host access (R80), at its port address. -/
def State.hostAccess (s : State) : PortAccess → State
  | .read addr => s.portRead (portAddress addr)
  | .write addr data strobe => s.portWrite (portAddress addr) data strobe

/-- The code a word that is no command completes with (60_exceptions.md R301). -/
def decodeErrCode : DecodeError → ErrCode
  | .reservedOp => .opcode
  | .unusedField => .field

/-- The command the core is to run: the decoding of CMD (30_encoding.md R100). -/
def State.fetch (s : State) : Except DecodeError Instr := decode s.cmd

end Sys2Proof.Machine
end

