-- ==== Sys2Proof/Machine/Step.lean ====
section
/-! DEFINITION. One step: the next event of the total order (20_memory.md R80). It only says whose turn it
is; what an event does stands in Port.lean, Ops.lean and the meanings. -/

namespace Sys2Proof.Machine

/-- The core's event: a running command completes (R86, 60_exceptions.md R305, R306); while BUSY = 0 the
core is idle and changes no state (R317). -/
def coreTurn (s : State) : Host.Outcome State Fault Refusal :=
  if s.busy then
    match s.fetch with
    | .ok i => exec i s
    | .error e => .next (s.complete (decodeErrCode e))
  else .next s

/-- The next event of the schedule; when it names none, the turn is the core's (log 1, log 8). -/
def step (s : State) : Host.Outcome State Fault Refusal :=
  match s.schedule with
  | [] => coreTurn s
  | .core :: rest => coreTurn { s with schedule := rest }
  | .host a :: rest => .next (State.hostAccess { s with schedule := rest } a)
  | .hardReset :: rest => .next (State.toReset { s with schedule := rest })

/-- `s` with a command accepted (R304) and the core's turn next, so that the next step runs it
(log 7). ZTCC fetches no instruction (10_state.md R29): the word stands in CMD. -/
def State.withFetchWord (s : State) (nbits w : Nat) : State :=
  { s.accept (BitVec.ofNat 32 (w % 2 ^ nbits)) with schedule := .core :: s.schedule }

end Sys2Proof.Machine
end

