-- ==== Sys2Proof/Safety.lean ====
section
/-! DEFINITION. What the claims are stated with: the invariant of every state a run reaches, what a
region of DBUF holds and what is left alone outside it, the regions of the opcode map, which errors a
command can raise, and runs of several commands. -/

namespace Sys2Proof.Machine

/-! ### The invariant -/

/-- DBUF is in canonical form and holds only offsets below DBUF_SIZE (20_memory.md R70). -/
abbrev State.MemoryInv (s : State) : Prop := s.dbuf.wf ∧ s.dbuf.below s.dbufSize

/-- The SHA-256 buffer holds fewer than 64 bytes, as many as BLEN counts beyond whole blocks
(10_state.md R26; 46_sha256.md R258). -/
abbrev State.ShaBufferInv (s : State) : Prop :=
  s.pb.length ≤ 63 ∧ s.blen.toNat % 512 = 8 * s.pb.length

/-- PR is a clamped r (44_poly1305.md R211); SCALAR, while valid, is a clamped scalar
(42_x25519.md R170); S0, while keyed, begins with the four constants (43_chacha20.md R191). -/
abbrev State.KeyFormInv (s : State) : Prop :=
  s.pr &&& polyClampMask = s.pr ∧
  (s.flags.xScalarValid = true →
    s.scalar.toNat % 8 = 0 ∧ 2 ^ 254 ≤ s.scalar.toNat ∧ s.scalar.toNat < 2 ^ 255) ∧
  (s.flags.ccKeyed = true →
    s.s0[0] = sigma[0] ∧ s.s0[1] = sigma[1] ∧ s.s0[2] = sigma[2] ∧ s.s0[3] = sigma[3])

/-- While a command runs, DONE is 0 and ERRCODE is 0 (10_state.md R36, 60_exceptions.md R304). -/
abbrev State.StatusInv (s : State) : Prop := s.busy = true → s.done = false ∧ s.errCode = .ok

/-- Memory hygiene: state whose sequencing flag is 0 is all zero, so no secret outlives the command that
consumed it (10_state.md R46, 70_reset_and_hazards.md R350). -/
abbrev State.HygieneInv (s : State) : Prop :=
  (s.flags.ccKeyed = false → s.s0 = Vector.replicate 16 0#32 ∧ s.x = Vector.replicate 16 0#32) ∧
  (s.flags.pKeyed = false → s.pr = 0#128 ∧ s.ps = 0#128 ∧ s.ph = phZero) ∧
  (s.flags.shaActive = false →
    s.sh = Vector.replicate 8 0#32 ∧ s.blen = 0#64 ∧ s.pb = [] ∧
    s.w = Vector.replicate 64 0#32 ∧ s.wv = Vector.replicate 8 0#32) ∧
  (s.flags.prkValid = false → s.prk = Vector.replicate 32 0#8) ∧
  (s.flags.xScalarValid = false → s.scalar = 0#256) ∧
  (s.flags.xLadderActive = false → s.swap = false)

/-- What holds of every state a run reaches. -/
abbrev State.Inv (s : State) : Prop :=
  Config.LegalDbufSize s.dbufSize ∧ s.MemoryInv ∧ s.ShaBufferInv ∧ s.KeyFormInv ∧ s.StatusInv ∧
    s.HygieneInv

/-! ### Bytes of DBUF -/

/-- DBUF holds the string from offset `a` on. -/
abbrev Memory.Holds (m : Memory) (a : Nat) (bs : List Byte) : Prop :=
  ∀ i, i < bs.length → m.readByte (a + i) = bs.getD i 0#8

/-- Every byte outside [a, a + n) reads in `m'` as in `m`. -/
abbrev Memory.SameOutside (m m' : Memory) (a n : Nat) : Prop :=
  ∀ k, (k < a ∨ a + n ≤ k) → m'.readByte k = m.readByte k

/-- The region (addr, n) is in bounds of a buffer of `size` bytes (R72). -/
abbrev Fits (addr n size : Nat) : Prop := n = 0 ∨ addr + n ≤ size

/-- Two regions share no byte (R73). -/
abbrev Apart (a m b n : Nat) : Prop := m = 0 ∨ n = 0 ∨ a + m ≤ b ∨ b + n ≤ a

/-- `s` completed with a code, nothing else changed (R306). -/
abbrev State.completedWith (s : State) (e : ErrCode) : State :=
  { s with busy := false, done := true, errCode := e }

/-- The next event of `s` is the core's turn, and `u` is `s` with that event taken off the schedule. An
empty schedule is the core's turn too (the model's choice: log 8; the schedule itself: log 1). -/
abbrev State.CoresTurn (s u : State) : Prop :=
  (s.schedule = [] ∧ u = s) ∨ ∃ rest, s.schedule = .core :: rest ∧ u = { s with schedule := rest }

/-- Rows of the opcode map R106: a command, its input regions, its output regions. -/
abbrev RegionRows := List (Instr × List Region × List Region)

/-- The columns "in" and "out" of the opcode map R106, all 47 rows, in terms of the ARGs: what
`commandChecks` must agree with. -/
def opcodeMapRegions (s : State) (a b c d : Idx) (n : Fin 256) : RegionRows :=
  ([(.nop, [], []), (.zeroize, [], []), (.memzero, [], [⟨s.arg 0, s.arg 1⟩]),
    (.ctEq, [⟨s.arg 0, s.arg 2⟩, ⟨s.arg 1, s.arg 2⟩], [])] : RegionRows) ++
  ([(.feLoad a, [⟨s.arg 0, 32⟩], []), (.feStore b, [], [⟨s.arg 0, 32⟩]), (.feSeti a, [], []),
    (.feMov a b, [], []), (.feAdd a b c, [], []), (.feSub a b c, [], []), (.feMul a b c, [], []),
    (.feSqr a b, [], []), (.feMula24 a b, [], []), (.feInv a b, [], []),
    (.feCswap a b, [], [])] : RegionRows) ++
  ([(.xLdscalar, [⟨s.arg 0, 32⟩], []), (.xInit b, [], []), (.xStep n, [], []), (.xFinish a, [], []),
    (.x25519, [⟨s.arg 0, 32⟩, ⟨s.arg 1, 32⟩], [⟨s.arg 2, 32⟩]),
    (.xKeygen, [⟨s.arg 0, 32⟩], [⟨s.arg 1, 32⟩, ⟨s.arg 2, 32⟩])] : RegionRows) ++
  ([(.ccInit, [⟨s.arg 0, 32⟩, ⟨s.arg 1, 12⟩], []), (.ccQr a b c d, [], []), (.ccDround, [], []),
    (.ccLoadx, [], []), (.ccAddout, [], [⟨s.arg 0, 64⟩]), (.ccBlock, [], [⟨s.arg 0, 64⟩]),
    (.ccXor, [⟨s.arg 0, s.arg 2⟩], [⟨s.arg 1, s.arg 2⟩])] : RegionRows) ++
  ([(.pKey, [⟨s.arg 0, 32⟩], []), (.pAcc, [⟨s.arg 0, s.arg 1⟩], []), (.pMul, [], []),
    (.pUpdate, [⟨s.arg 0, s.arg 1⟩], []), (.pFinal, [], [⟨s.arg 0, 16⟩]),
    (.pMac, [⟨s.arg 0, 32⟩, ⟨s.arg 1, s.arg 2⟩], [⟨s.arg 3, 16⟩])] : RegionRows) ++
  ([(.aeadEnc, [⟨s.arg 0, 32⟩, ⟨s.arg 1, 12⟩, ⟨s.arg 2, s.arg 3⟩, ⟨s.arg 4, s.arg 5⟩],
      [⟨s.arg 6, s.arg 5⟩, ⟨s.arg 7, 16⟩]),
    (.aeadDec, [⟨s.arg 0, 32⟩, ⟨s.arg 1, 12⟩, ⟨s.arg 2, s.arg 3⟩, ⟨s.arg 4, s.arg 5⟩, ⟨s.arg 7, 16⟩],
      [⟨s.arg 6, s.arg 5⟩])] : RegionRows) ++
  ([(.shaInit, [], []), (.shaUpdate, [⟨s.arg 0, s.arg 1⟩], []), (.shaFinal, [], [⟨s.arg 0, 32⟩]),
    (.shaLoadblk, [⟨s.arg 0, 64⟩], []), (.shaRound n, [], []), (.shaFold, [], []),
    (.sha256, [⟨s.arg 0, s.arg 1⟩], [⟨s.arg 2, 32⟩])] : RegionRows) ++
  ([(.hmac, [⟨s.arg 0, s.arg 1⟩, ⟨s.arg 2, s.arg 3⟩], [⟨s.arg 4, 32⟩]),
    (.hkdfExtract, [⟨s.arg 0, s.arg 1⟩, ⟨s.arg 2, s.arg 3⟩], []),
    (.hkdfExpand, [⟨s.arg 0, s.arg 1⟩], [⟨s.arg 2, s.arg 3⟩]),
    (.hkdf, [⟨s.arg 0, s.arg 1⟩, ⟨s.arg 2, s.arg 3⟩, ⟨s.arg 4, s.arg 5⟩],
      [⟨s.arg 6, s.arg 7⟩])] : RegionRows)

/-- Byte `j` of the keystream that starts at the block of `s0` (43_chacha20.md R194, R203). -/
def keystreamByte (s0 : CcMatrix) (j : Nat) : Byte :=
  (chaChaBlock (s0.set 12 (s0[12] + BitVec.ofNat 32 (j / 64)))).2.getD (j % 64) 0#8

/-! ### Errors -/

/-- The codes a decoded command can complete with: OK and its row of 60_exceptions.md R302, and E_FIELD
for `sha.round` (R103). -/
def possibleCodes : Instr → List ErrCode
  | .nop => [.ok]
  | .zeroize => [.ok]
  | .memzero => [.ok, .bounds]
  | .ctEq => [.ok, .bounds]
  | .feLoad _ => [.ok, .bounds]
  | .feStore _ => [.ok, .bounds]
  | .feSeti _ => [.ok]
  | .feMov _ _ => [.ok]
  | .feAdd _ _ _ => [.ok]
  | .feSub _ _ _ => [.ok]
  | .feMul _ _ _ => [.ok]
  | .feSqr _ _ => [.ok]
  | .feMula24 _ _ => [.ok]
  | .feInv _ _ => [.ok]
  | .feCswap _ _ => [.ok]
  | .xLdscalar => [.ok, .bounds]
  | .xInit _ => [.ok]
  | .xStep _ => [.ok, .sequence]
  | .xFinish _ => [.ok, .sequence]
  | .x25519 => [.ok, .bounds, .overlap]
  | .xKeygen => [.ok, .bounds, .overlap]
  | .ccInit => [.ok, .bounds]
  | .ccQr _ _ _ _ => [.ok, .sequence]
  | .ccDround => [.ok, .sequence]
  | .ccLoadx => [.ok, .sequence]
  | .ccAddout => [.ok, .bounds, .sequence]
  | .ccBlock => [.ok, .bounds, .sequence]
  | .ccXor => [.ok, .bounds, .overlap, .sequence]
  | .pKey => [.ok, .bounds]
  | .pAcc => [.ok, .length, .bounds, .sequence]
  | .pMul => [.ok, .sequence]
  | .pUpdate => [.ok, .bounds, .sequence]
  | .pFinal => [.ok, .bounds, .sequence]
  | .pMac => [.ok, .bounds, .overlap]
  | .aeadEnc => [.ok, .bounds, .overlap]
  | .aeadDec => [.ok, .bounds, .overlap, .auth]
  | .shaInit => [.ok]
  | .shaUpdate => [.ok, .bounds, .sequence]
  | .shaFinal => [.ok, .bounds, .sequence]
  | .shaLoadblk => [.ok, .bounds, .sequence]
  | .shaRound _ => [.ok, .field, .sequence]
  | .shaFold => [.ok, .sequence]
  | .sha256 => [.ok, .bounds, .overlap]
  | .hmac => [.ok, .bounds, .overlap]
  | .hkdfExtract => [.ok, .bounds]
  | .hkdfExpand => [.ok, .length, .bounds, .overlap, .sequence]
  | .hkdf => [.ok, .length, .bounds, .overlap]

/-- The OP values R107 reserves. -/
abbrev ReservedOp (op : Nat) : Prop :=
  (0x04 ≤ op ∧ op ≤ 0x0F) ∨ (0x1B ≤ op ∧ op ≤ 0x1F) ∨ (0x26 ≤ op ∧ op ≤ 0x2F) ∨
  (0x37 ≤ op ∧ op ≤ 0x3F) ∨ (0x46 ≤ op ∧ op ≤ 0x4F) ∨ (0x52 ≤ op ∧ op ≤ 0x5F) ∨
  (0x67 ≤ op ∧ op ≤ 0x6F) ∨ (0x74 ≤ op ∧ op ≤ 0xFF)

/-! ### Sequences of commands -/

/-- The commands run one after another, each accepted and completed before the next; ARG writes of the
host between them are given as the ARG values each command runs with. -/
def runSeq : List (Vector Word 8 × Instr) → State → Host.Outcome State Fault Refusal
  | [], s => .next s
  | (args, i) :: rest, s =>
    match exec i { s with args := args } with
    | .next t => runSeq rest t
    | .fault r => .fault r
    | .refused r => .refused r

end Sys2Proof.Machine
end

