-- ==== Sys2Proof/Certificates/Slice0/Obligations.lean ====
section
/-! DEFINITION. The statements for the provers. Each docstring names the rule it formalises. In most of
them the next state is given as `s` with the fields the rule names replaced, so that every other field is
said to be unchanged. -/

open Sys2Proof Sys2Proof.Machine

/-! ### Encoding (30_encoding.md) -/

/-- R101 to R106, R100: no bit of an encoding is dropped. Decoding the word of a command gives the command;
a word that decodes is the word of what it decodes to, so each legal word has one meaning. -/
def Obligations.DecodeInvertsEncode : Prop :=
  (∀ i : Instr, i.WellFormed → decode (encode i) = .ok i) ∧
  ∀ (w : Word) (i : Instr), decode w = .ok i → i.WellFormed ∧ encode i = w

/-- R111: the worked encodings. -/
def Obligations.WorkedEncodingsDecode : Prop :=
  decode 0x00021316#32 = .ok (.feMul 3 1 2) ∧
  decode 0xFE000022#32 = .ok (.xStep 254) ∧
  decode 0x00C84031#32 = .ok (.ccQr 0 4 8 12) ∧
  decode 0x00CB6131#32 = .ok (.ccQr 1 6 11 12) ∧
  decode 0x3F000064#32 = .ok (.shaRound 63) ∧
  decode 0x00005011#32 = .ok (.feStore 5) ∧
  decode 0x00000523#32 = .ok (.xFinish 5) ∧
  decode 0x00000051#32 = .ok .aeadDec ∧
  decode 0x00000000#32 = .ok .nop

/-- R107, R103, R301, R305, R307: at the core's turn a word with a reserved OP completes with E_OPCODE, a
word with an assigned OP that is the word of no well-formed command completes with E_FIELD, and neither
changes anything but STATUS. That events stand in a schedule, and that an empty one is the core's turn, is
the model's choice (log 1, log 8). -/
def Obligations.IllegalWordsCompleteWithTheirCode : Prop :=
  ∀ s u : State, s.CoresTurn u → s.busy = true →
    (ReservedOp (s.cmd.toNat % 256) → step s = .next (u.completedWith .opcode)) ∧
    (¬ReservedOp (s.cmd.toNat % 256) → (∀ i : Instr, i.WellFormed → encode i ≠ s.cmd) →
      step s = .next (u.completedWith .field))

/-- R100, R305, 20_memory.md R80: when the core's turn comes while a command runs and CMD decodes to `i`,
the step is `exec i` on the state with that turn taken off the schedule. That events stand in a schedule,
and that an empty one is the core's turn, is the model's choice (log 1, log 8). -/
def Obligations.StepRunsDecodedCommand : Prop :=
  ∀ (s : State) (i : Instr) (rest : List Turn), s.busy = true → decode s.cmd = .ok i →
    (s.schedule = .core :: rest → step s = exec i { s with schedule := rest }) ∧
    (s.schedule = [] → step s = exec i s)

/-- R80, R30, R78, R77, R317: when the next event is a host access, the step is that read or write of the
port, at the port address that, added to ZTCC_BASE, gives the host's address; when it is the core's turn and
BUSY = 0, the step changes nothing. That events stand in a schedule, and that an empty one is the core's
turn, is the model's choice (log 1, log 8). -/
def Obligations.StepPerformsHostAccessesAndIdleTurns : Prop :=
  ∀ (s u : State) (addr data : BitVec 32) (strobe : BitVec 4) (rest : List Turn),
    (s.schedule = .host (.read (Config.ztccBase + addr)) :: rest →
      step s = .next (State.portRead { s with schedule := rest } addr)) ∧
    (s.schedule = .host (.write (Config.ztccBase + addr) data strobe) :: rest →
      step s = .next (State.portWrite { s with schedule := rest } addr data strobe)) ∧
    (s.CoresTurn u → s.busy = false → step s = .next u)

/-! ### Acceptance, completion, reset, the invariant -/

/-- R304, R87, R88, R78: a full-strobe write to CMD while BUSY = 0 is the acceptance event, at any port
address whose word is 0x010; HOSTERR, RESULT and everything else keep their values. A CMD write while
BUSY = 1, or with a partial strobe, accepts nothing: it only sets HOSTERR. That the write stands in a
schedule and the step takes it off is the model's choice (log 1). -/
def Obligations.CmdWriteAccepts : Prop :=
  ∀ (s : State) (addr w : BitVec 32) (strobe : BitVec 4) (rest : List Turn), addr.toNat / 4 = 4 →
    s.schedule = .host (.write (Config.ztccBase + addr) w strobe) :: rest →
    (s.busy = false → strobe = 0xF#4 → step s = .next
      { s with cmd := w, errCode := .ok, done := false, busy := true, schedule := rest }) ∧
    (s.busy = true ∨ strobe ≠ 0xF#4 → step s = .next { s with hostErr := true, schedule := rest })

/-- R306, R81, R86: every accepted command completes at the core's next turn, whatever its word: the step
answers a next state with BUSY = 0 and DONE = 1, and CMD, ARG0–ARG7, CTRL.IE, HOSTERR and DBUF_SIZE keep
the values the command ran with. The model's choices here: events stand in a schedule (log 1), an empty one
is the core's turn (log 8), and a completion keeps the port's last answer (log 3). -/
def Obligations.EveryAcceptedCommandCompletes : Prop :=
  ∀ s u : State, s.CoresTurn u → s.busy = true →
    ∃ t, step s = .next t ∧ t.busy = false ∧ t.done = true ∧ t.cmd = s.cmd ∧ t.args = s.args ∧
      t.ie = s.ie ∧ t.hostErr = s.hostErr ∧ t.dbufSize = s.dbufSize ∧ t.rdata = s.rdata ∧
      t.schedule = u.schedule

/-- R340, R341, R342, R45: the RST event, and a full-strobe CTRL write with bit 1 set, whatever the other
bits, put every piece of state at its reset value, while a command runs too. DBUF_SIZE is hardwired; that
the events to come are kept and RDATA's record is cleared is the model's choice (log 1, log 3). -/
def Obligations.ResetPutsEveryStateAtItsValue : Prop :=
  ∀ (s : State) (addr data : BitVec 32) (rest : List Turn),
    (s.schedule = .hardReset :: rest ∨
      (addr.toNat / 4 = 2 ∧ data.getLsbD 1 = true ∧
        s.schedule = .host (.write (Config.ztccBase + addr) data 0xF#4) :: rest)) →
    step s = .next
      { fe := Vector.replicate 16 feZero, scalar := 0#256, swap := false
        s0 := Vector.replicate 16 0#32, x := Vector.replicate 16 0#32
        pr := 0#128, ps := 0#128, ph := phZero
        sh := Vector.replicate 8 0#32, blen := 0#64, pb := []
        w := Vector.replicate 64 0#32, wv := Vector.replicate 8 0#32
        prk := Vector.replicate 32 0#8
        flags := ⟨false, false, false, false, false, false⟩
        ie := false, busy := false, done := false, hostErr := false, errCode := .ok
        cmd := 0#32, result := false, args := Vector.replicate 8 0#32
        dbufSize := s.dbufSize, dbuf := [], rdata := 0#32, schedule := rest }

/-- The invariant holds of the state after reset (R45, R9). -/
def Obligations.ResetSatisfiesInvariant : Prop := State.reset.Inv

/-- From every state that meets the invariant, every step (a host access, a reset, a completion of any
command word) gives a state that meets it: DBUF stays canonical and inside DBUF_SIZE, PB stays below a
block and BLEN counts it, PR and SCALAR stay clamped, S0 keeps its constants while keyed, STATUS is clear
while BUSY, and state whose sequencing flag is 0 is all zero (R46, R350: memory hygiene). -/
def Obligations.StepKeepsInvariant : Prop :=
  ∀ s t : State, s.Inv → step s = .next t → t.Inv

/-! ### The checks (60_exceptions.md) -/

/-- R302, R307: the codes each command can complete with are OK and those of its row; with a code other
than OK it changes nothing but STATUS, and RESULT for E_AUTH. -/
def Obligations.ErrorsChangeOnlyStatus : Prop :=
  ∀ (i : Instr) (s t : State), exec i s = .next t →
    t.errCode ∈ possibleCodes i ∧
    (t.errCode = .auth → t = { s.completedWith .auth with result := true }) ∧
    (t.errCode ≠ .ok → t.errCode ≠ .auth → t = s.completedWith t.errCode)

/-- R305, R103: E_FIELD for `sha.round` with IMM8 ≥ 64 (whose word does not decode to a command) and
E_LENGTH for the three commands that have it come before everything else that can fail, whatever the
regions and the flags. -/
def Obligations.FieldAndLengthAreCheckedFirst : Prop :=
  ∀ s : State,
    (∀ n : Fin 256, 64 ≤ n.val → exec (.shaRound n) s = .next (s.completedWith .field) ∧
      decode (packWord 0x64 0 0 0 0 n) = .error .unusedField) ∧
    ((s.arg 1 = 0 ∨ 16 < s.arg 1) → exec .pAcc s = .next (s.completedWith .length)) ∧
    (8160 < s.arg 3 → exec .hkdfExpand s = .next (s.completedWith .length)) ∧
    (8160 < s.arg 7 → exec .hkdf s = .next (s.completedWith .length))

/-- R106, R72, R301, R305: the input and output regions of every command, as the columns "in" and "out" of
R106 give them in terms of the ARGs (`opcodeMapRegions`); where the length operands are in range and one of those regions with
len > 0 has addr + len > DBUF_SIZE, on unbounded integers, the command completes with E_BOUNDS whatever the
overlaps and the flags, and changes nothing but STATUS. -/
def Obligations.OutOfBoundsRegionIsRefused : Prop :=
  ∀ (s : State) (a b c d : Idx) (n : Fin 256) (i : Instr) (ins outs : List Region),
    (i, ins, outs) ∈ opcodeMapRegions s a b c d n →
    (commandChecks i s).ins = ins ∧ (commandChecks i s).outs = outs ∧
    ((i = .pAcc → 1 ≤ s.arg 1 ∧ s.arg 1 ≤ 16) → (i = .hkdfExpand → s.arg 3 ≤ 8160) →
      (i = .hkdf → s.arg 7 ≤ 8160) →
      ∀ r ∈ ins ++ outs, 0 < r.len → s.dbufSize < r.addr + r.len →
        exec i s = .next (s.completedWith .bounds))

/-- R73, R301: on regions in bounds, whatever the flags, a command completes with E_OVERLAP and changes
nothing but STATUS when an output shares a byte with an input region that is not the identical region, when
two outputs share a byte, and when an output is identical to an input that is not its in-place pair. -/
def Obligations.OverlapIsRefused : Prop :=
  ∀ (s : State) (i : Instr), (commandChecks i s).fieldOk = true → (commandChecks i s).lengthOk = true →
    (∀ r ∈ (commandChecks i s).ins ++ (commandChecks i s).outs, Fits r.addr r.len s.dbufSize) →
    ((∃ r ∈ (commandChecks i s).ins, ∃ q ∈ (commandChecks i s).outs,
        r ≠ q ∧ ¬Apart r.addr r.len q.addr q.len) ∨
      (i = .xKeygen ∧ (¬Apart (s.arg 1) 32 (s.arg 2) 32 ∨ s.arg 0 = s.arg 2)) ∨
      (i = .x25519 ∧ s.arg 0 = s.arg 2) ∨
      (i = .aeadEnc ∧ ¬Apart (s.arg 6) (s.arg 5) (s.arg 7) 16) ∨
      (i ∈ [Instr.aeadEnc, .aeadDec] ∧ 0 < s.arg 5 ∧
        ((s.arg 5 = 32 ∧ s.arg 0 = s.arg 6) ∨ (s.arg 5 = 12 ∧ s.arg 1 = s.arg 6) ∨
          (s.arg 3 = s.arg 5 ∧ s.arg 2 = s.arg 6))) ∨
      (i = .aeadDec ∧ s.arg 5 = 16 ∧ s.arg 7 = s.arg 6) ∨
      (i = .aeadEnc ∧ ((s.arg 3 = 16 ∧ s.arg 2 = s.arg 7) ∨ (s.arg 5 = 16 ∧ s.arg 4 = s.arg 7))) ∨
      (i ∈ [Instr.pMac, .sha256, .hmac, .hkdfExpand, .hkdf] ∧
        ∃ r ∈ (commandChecks i s).ins, r ∈ (commandChecks i s).outs ∧ 0 < r.len)) →
    exec i s = .next (s.completedWith .overlap)

/-- R28, R301: a command that needs a sequencing flag which is 0, and whose earlier checks pass, completes
with E_SEQUENCE and changes nothing but STATUS. -/
def Obligations.MissingFlagIsRefused : Prop :=
  ∀ (s : State) (a b c d : Idx) (t : Fin 256),
    (s.flags.xScalarValid = false ∨ s.flags.xLadderActive = false →
      exec (.xStep t) s = .next (s.completedWith .sequence)) ∧
    (s.flags.xLadderActive = false → exec (.xFinish a) s = .next (s.completedWith .sequence)) ∧
    (s.flags.ccKeyed = false → ∀ i ∈ [Instr.ccQr a b c d, .ccDround, .ccLoadx],
      exec i s = .next (s.completedWith .sequence)) ∧
    (s.flags.ccKeyed = false → s.arg 0 + 64 ≤ s.dbufSize → ∀ i ∈ [Instr.ccAddout, .ccBlock],
      exec i s = .next (s.completedWith .sequence)) ∧
    (s.flags.ccKeyed = false → Fits (s.arg 0) (s.arg 2) s.dbufSize →
      Fits (s.arg 1) (s.arg 2) s.dbufSize →
      (s.arg 0 = s.arg 1 ∨ Apart (s.arg 0) (s.arg 2) (s.arg 1) (s.arg 2)) →
      exec .ccXor s = .next (s.completedWith .sequence)) ∧
    (s.flags.pKeyed = false → exec .pMul s = .next (s.completedWith .sequence)) ∧
    (s.flags.pKeyed = false → 1 ≤ s.arg 1 → s.arg 1 ≤ 16 → s.arg 0 + s.arg 1 ≤ s.dbufSize →
      exec .pAcc s = .next (s.completedWith .sequence)) ∧
    (s.flags.pKeyed = false → Fits (s.arg 0) (s.arg 1) s.dbufSize →
      exec .pUpdate s = .next (s.completedWith .sequence)) ∧
    (s.flags.pKeyed = false → s.arg 0 + 16 ≤ s.dbufSize →
      exec .pFinal s = .next (s.completedWith .sequence)) ∧
    (s.flags.shaActive = false → Fits (s.arg 0) (s.arg 1) s.dbufSize →
      exec .shaUpdate s = .next (s.completedWith .sequence)) ∧
    (s.flags.shaActive = false → s.arg 0 + 32 ≤ s.dbufSize →
      exec .shaFinal s = .next (s.completedWith .sequence)) ∧
    (s.flags.shaActive = false → s.arg 0 + 64 ≤ s.dbufSize →
      exec .shaLoadblk s = .next (s.completedWith .sequence)) ∧
    (s.flags.shaActive = false → t.val < 64 →
      exec (.shaRound t) s = .next (s.completedWith .sequence)) ∧
    (s.flags.shaActive = false → exec .shaFold s = .next (s.completedWith .sequence)) ∧
    (s.flags.prkValid = false → s.arg 3 ≤ 8160 → Fits (s.arg 0) (s.arg 1) s.dbufSize →
      Fits (s.arg 2) (s.arg 3) s.dbufSize → Apart (s.arg 0) (s.arg 1) (s.arg 2) (s.arg 3) →
      exec .hkdfExpand s = .next (s.completedWith .sequence))

/-! ### Whole-machine rules -/

/-- R21, R24, R38, R41, R32: which commands write what. Every command not named leaves FE, X, S0, RESULT
and PRK as they are; no command writes an ARG register, CMD, CTRL.IE, HOSTERR or DBUF_SIZE. -/
def Obligations.OnlyTheNamedCommandsWriteEachRegister : Prop :=
  ∀ (i : Instr) (s t : State), exec i s = .next t →
    t.args = s.args ∧ t.cmd = s.cmd ∧ t.ie = s.ie ∧ t.hostErr = s.hostErr ∧
    t.dbufSize = s.dbufSize ∧
    (t.fe ≠ s.fe → i = .zeroize ∨ ∃ a b c, i ∈ [Instr.feLoad a, .feSeti a, .feMov a b, .feAdd a b c,
      .feSub a b c, .feMul a b c, .feSqr a b, .feMula24 a b, .feInv a b, .feCswap a b, .xInit b,
      .xFinish a] ∨ ∃ n, i = .xStep n) ∧
    (t.x ≠ s.x → i = .zeroize ∨
      ∃ a b c d, i ∈ [Instr.ccInit, .ccQr a b c d, .ccDround, .ccLoadx, .ccBlock, .ccXor]) ∧
    (t.s0 ≠ s.s0 → i ∈ [Instr.zeroize, .ccInit, .ccAddout, .ccBlock, .ccXor]) ∧
    (t.result ≠ s.result → i ∈ [Instr.ctEq, .aeadDec]) ∧
    (t.prk ≠ s.prk → i ∈ [Instr.zeroize, .hkdfExtract, .hkdfExpand])

/-- R28: which commands set and which clear each sequencing flag, of the commands that complete. -/
def Obligations.SequencingFlagsChangeOnlyAsTabled : Prop :=
  ∀ (i : Instr) (s t : State), exec i s = .next t →
    (t.flags.ccKeyed ≠ s.flags.ccKeyed → i = if t.flags.ccKeyed then .ccInit else .zeroize) ∧
    (t.flags.pKeyed ≠ s.flags.pKeyed →
      if t.flags.pKeyed then i = .pKey else i ∈ [Instr.pFinal, .zeroize]) ∧
    (t.flags.shaActive ≠ s.flags.shaActive →
      if t.flags.shaActive then i = .shaInit else i ∈ [Instr.shaFinal, .zeroize]) ∧
    (t.flags.prkValid ≠ s.flags.prkValid →
      if t.flags.prkValid then i = .hkdfExtract else i ∈ [Instr.hkdfExpand, .zeroize]) ∧
    (t.flags.xScalarValid ≠ s.flags.xScalarValid →
      if t.flags.xScalarValid then i = .xLdscalar
      else i = .zeroize ∨ ∃ a, i = .xFinish a) ∧
    (t.flags.xLadderActive ≠ s.flags.xLadderActive →
      if t.flags.xLadderActive then ∃ b, i = .xInit b else i = .zeroize ∨ ∃ a, i = .xFinish a)

/-- R15: a one-shot command reads and writes only its DBUF regions, RESULT where its rule says so, and
STATUS: the next state is `s` with at most DBUF, RESULT and STATUS changed (RESULT by `aead.dec` only), and
what it does to them is the same in every state with the same ARGs, DBUF and RESULT. -/
def Obligations.OneShotsTouchNoStageState : Prop :=
  ∀ (i : Instr) (s u t : State),
    i ∈ [Instr.x25519, .xKeygen, .pMac, .aeadEnc, .aeadDec, .sha256, .hmac, .hkdf] →
    u.args = s.args → u.dbuf = s.dbuf → u.dbufSize = s.dbufSize → u.result = s.result →
    exec i s = .next t →
    t = { s with dbuf := t.dbuf, result := t.result, busy := false, done := true,
                 errCode := t.errCode } ∧
    (i ≠ .aeadDec → t.result = s.result) ∧
    exec i u = .next { u with dbuf := t.dbuf, result := t.result, busy := false, done := true,
                              errCode := t.errCode }

/-- R72, R307, R13: no command changes a byte of DBUF outside its output regions; a command without one
changes no byte. -/
def Obligations.BytesOutsideOutputRegionsAreKept : Prop :=
  ∀ (i : Instr) (s t : State), s.dbuf.wf → exec i s = .next t →
    (∀ k, (∀ r ∈ (commandChecks i s).outs, k < r.addr ∨ r.addr + r.len ≤ k) →
      t.dbuf.readByte k = s.dbuf.readByte k) ∧
    ((commandChecks i s).outs = [] → t.dbuf = s.dbuf)

/-- R278, R44: PRK is confined. For every command but `hkdf.expand`, two states that differ only in PRK go
to states that differ at most in PRK. -/
def Obligations.PrkReachesNothingButExpand : Prop :=
  ∀ (i : Instr) (s t : State) (k : Vector Byte 32), i ≠ .hkdfExpand → exec i s = .next t →
    ∃ u, exec i { s with prk := k } = .next u ∧ u = { t with prk := u.prk }

/-- R46, R44: no host read reaches secret state: the word a port read answers and the state it leaves do
not depend on SCALAR, SWAP, FE, the S0 words but the counter, X, PR, PS, PH, SH, BLEN, PB, W, WV or PRK. -/
def Obligations.PortReadsDoNotDependOnSecrets : Prop :=
  ∀ (s u : State) (addr : BitVec 32),
    u = { s with fe := u.fe, scalar := u.scalar, swap := u.swap, s0 := u.s0, x := u.x, pr := u.pr,
                 ps := u.ps, ph := u.ph, sh := u.sh, blen := u.blen, pb := u.pb, w := u.w,
                 wv := u.wv, prk := u.prk } →
    u.s0[12] = s.s0[12] →
    (u.portRead addr).rdata = (s.portRead addr).rdata ∧
      (u.portRead addr).hostErr = (s.portRead addr).hostErr

/-! ### The host port (10_state.md, 20_memory.md) -/

/-- R31 to R41: what a read of each register answers, bit by bit for STATUS, with the numbers of the error
codes (R300); it changes nothing but the port's answer (R77). -/
def Obligations.RegisterReadsAnswerTheirValue : Prop :=
  ∀ (s : State) (addr : BitVec 32) (code : Nat), addr.toNat < 0x40 →
    (s.errCode, code) ∈ [(ErrCode.ok, 0x00), (.opcode, 0x01), (.field, 0x02), (.length, 0x03),
      (.bounds, 0x04), (.overlap, 0x05), (.sequence, 0x06), (.auth, 0x07)] →
    ∃ t, s.portRead addr = t ∧ t = { s with rdata := t.rdata } ∧
    (addr.toNat / 4 = 0 → t.rdata = 0x5A544343#32) ∧
    (addr.toNat / 4 = 1 → t.rdata = 0x00010000#32) ∧
    (addr.toNat / 4 = 2 → t.rdata.toNat = s.ie.toNat) ∧
    (addr.toNat / 4 = 3 → t.rdata.toNat =
      s.busy.toNat + 2 * s.done.toNat + 4 * s.hostErr.toNat + 256 * code +
      2 ^ 16 * s.flags.ccKeyed.toNat + 2 ^ 17 * s.flags.pKeyed.toNat +
      2 ^ 18 * s.flags.shaActive.toNat + 2 ^ 19 * s.flags.prkValid.toNat +
      2 ^ 20 * s.flags.xScalarValid.toNat + 2 ^ 21 * s.flags.xLadderActive.toNat) ∧
    (addr.toNat / 4 = 4 → t.rdata = s.cmd) ∧
    (addr.toNat / 4 = 5 → t.rdata.toNat = s.result.toNat) ∧
    (addr.toNat / 4 = 6 → t.rdata.toNat = s.dbufSize % 2 ^ 32) ∧
    (addr.toNat / 4 = 7 → t.rdata = s.s0[12]) ∧
    (∀ n : Fin 8, addr.toNat / 4 = 8 + n.val → t.rdata = s.args[n])

/-- R35, R36, R41: full-strobe writes to CTRL without SRST, to STATUS (write 1 to clear, BUSY or not) and to
an ARG while BUSY = 0. -/
def Obligations.RegisterWritesDoWhatTheirRuleSays : Prop :=
  ∀ (s : State) (addr d : BitVec 32),
    (addr.toNat / 4 = 2 → d.getLsbD 1 = false →
      s.portWrite addr d 0xF#4 = { s with ie := d.getLsbD 0 }) ∧
    (addr.toNat / 4 = 3 →
      s.portWrite addr d 0xF#4 = { s with
        done := if d.getLsbD 1 then false else s.done,
        hostErr := if d.getLsbD 2 then false else s.hostErr }) ∧
    (∀ n : Fin 8, addr.toNat / 4 = 8 + n.val → s.busy = false →
      ∃ t, s.portWrite addr d 0xF#4 = t ∧ t = { s with args := t.args } ∧ t.args[n] = d ∧
        ∀ m : Fin 8, m ≠ n → t.args[m] = s.args[m])

/-- R87, R345, R310: while BUSY, a full-strobe write to CMD or an ARG, any write to DBUF, and a read of
DBUF are dropped and set HOSTERR; the read answers 0. -/
def Obligations.BusyAccessesAreDropped : Prop :=
  ∀ (s : State) (addr d : BitVec 32) (strobe : BitVec 4), s.busy = true →
    ((addr.toNat / 4 = 4 ∨ (8 ≤ addr.toNat / 4 ∧ addr.toNat / 4 ≤ 15)) →
      s.portWrite addr d 0xF#4 = { s with hostErr := true }) ∧
    (0x1000 ≤ addr.toNat → addr.toNat / 4 * 4 < 0x1000 + s.dbufSize →
      s.portWrite addr d strobe = { s with hostErr := true } ∧
      s.portRead addr = { s with hostErr := true, rdata := 0#32 })

/-- R88, R42: a write to a register whose strobe is not 0b1111 is ignored and sets HOSTERR, whatever the
register and whether or not BUSY is set; a full-strobe write to a read-only register (ID, VERSION, RESULT,
DBUF_SIZE, CC_CTR) changes nothing, HOSTERR included; a reserved or unmapped address reads 0 and ignores
every write, and neither sets HOSTERR. -/
def Obligations.IgnoredAccesses : Prop :=
  ∀ (s : State) (addr d : BitVec 32) (strobe : BitVec 4),
    (addr.toNat < 0x40 → strobe ≠ 0xF#4 →
      s.portWrite addr d strobe = { s with hostErr := true }) ∧
    (addr.toNat / 4 ∈ [0, 1, 5, 6, 7] → s.portWrite addr d 0xF#4 = s) ∧
    (((0x40 ≤ addr.toNat ∧ addr.toNat < 0x1000) ∨
        (0x1000 ≤ addr.toNat ∧ 0x1000 + s.dbufSize ≤ addr.toNat / 4 * 4)) →
      s.portRead addr = { s with rdata := 0#32 } ∧ s.portWrite addr d strobe = s)

/-- R74, R77, R87: while BUSY = 0 a DBUF write stores exactly the strobed byte lanes, lane i at the byte
address (ADDR & ~3) + i, and leaves every other byte and register alone; a DBUF read answers the four bytes
of the word, little-endian, and has no other effect. -/
def Obligations.DbufWordsAreLittleEndianLanes : Prop :=
  ∀ (s : State) (addr d : BitVec 32) (strobe : BitVec 4) (o : Nat), s.dbuf.wf → s.busy = false →
    addr.toNat / 4 * 4 = 0x1000 + o → o < s.dbufSize →
    (∃ t, s.portWrite addr d strobe = t ∧ t = { s with dbuf := t.dbuf } ∧
      (∀ i : Fin 4, t.dbuf.readByte (o + i.val) =
        if strobe.getLsbD i then d.extractLsb' (8 * i.val) 8 else s.dbuf.readByte (o + i.val)) ∧
      s.dbuf.SameOutside t.dbuf o 4) ∧
    ∃ t, s.portRead addr = t ∧ t = { s with rdata := t.rdata } ∧
      t.rdata.toNat = (s.dbuf.readByte o).toNat + 2 ^ 8 * (s.dbuf.readByte (o + 1)).toNat +
        2 ^ 16 * (s.dbuf.readByte (o + 2)).toNat + 2 ^ 24 * (s.dbuf.readByte (o + 3)).toNat

/-- R309: IRQ is the level CTRL.IE & STATUS.DONE. It follows IE at every completion, error or not, it is
0 after an acceptance, after a STATUS write that clears DONE, after a CTRL write of IE = 0 (which keeps
DONE) and after a reset, and HOSTERR does not raise it. -/
def Obligations.IrqIsIeAndDone : Prop :=
  ∀ (s : State) (w : Word), s.irq = (s.ie && s.done) ∧
    (∀ (i : Instr) (t : State), exec i s = .next t → t.irq = s.ie) ∧
    (∀ e : ErrCode, (s.completedWith e).irq = s.ie) ∧
    (s.accept w).irq = false ∧ s.toReset.irq = false ∧
    (∀ d : BitVec 32, d.getLsbD 1 = true → (s.portWrite 0xC#32 d 0xF#4).irq = false) ∧
    (∀ d : BitVec 32, d.getLsbD 1 = false → d.getLsbD 0 = false →
      (s.portWrite 0x8#32 d 0xF#4).irq = false ∧ (s.portWrite 0x8#32 d 0xF#4).done = s.done) ∧
    s.setHostErr.irq = s.irq

/-! ### Control commands (40_control.md) -/

/-- R130, R131: `nop` changes nothing but STATUS; `zeroize` zeroes every register file, internal state and
sequencing flag, and leaves DBUF, the ARGs, CTRL, RESULT and CMD. Their words are 0 and 1; CMD is 0 after
reset, and no command runs then. -/
def Obligations.NopAndZeroize : Prop :=
  ∀ s : State,
    exec .nop s = .next (s.completedWith .ok) ∧
    exec .zeroize s = .next { s.completedWith .ok with
      fe := Vector.replicate 16 feZero, scalar := 0#256, swap := false
      s0 := Vector.replicate 16 0#32, x := Vector.replicate 16 0#32
      pr := 0#128, ps := 0#128, ph := phZero
      sh := Vector.replicate 8 0#32, blen := 0#64, pb := []
      w := Vector.replicate 64 0#32, wv := Vector.replicate 8 0#32
      prk := Vector.replicate 32 0#8
      flags := ⟨false, false, false, false, false, false⟩ } ∧
    decode 0x00000000#32 = .ok .nop ∧ decode 0x00000001#32 = .ok .zeroize ∧
    State.reset.cmd = 0x00000000#32 ∧ State.reset.busy = false

/-- R132, R133: `memzero` on a region in bounds zeroes it and nothing else; `ct.eq` writes RESULT = 0
exactly when the two regions hold the same bytes, and nothing else. -/
def Obligations.MemzeroAndCtEq : Prop :=
  ∀ s : State,
    (s.dbuf.wf → Fits (s.arg 0) (s.arg 1) s.dbufSize →
      ∃ t, exec .memzero s = .next t ∧ t = { s.completedWith .ok with dbuf := t.dbuf } ∧
        (∀ i, i < s.arg 1 → t.dbuf.readByte (s.arg 0 + i) = 0#8) ∧
        s.dbuf.SameOutside t.dbuf (s.arg 0) (s.arg 1)) ∧
    (Fits (s.arg 0) (s.arg 2) s.dbufSize → Fits (s.arg 1) (s.arg 2) s.dbufSize →
      ∃ t, exec .ctEq s = .next t ∧ t = { s.completedWith .ok with result := t.result } ∧
        (t.result = false ↔
          ∀ i, i < s.arg 2 → s.dbuf.readByte (s.arg 0 + i) = s.dbuf.readByte (s.arg 1 + i)))

/-! ### Field commands (41_field.md) -/

/-- R144, R142, R145, R143, R157: `fe.load` sets FE[A] to (LE(B) mod 2^255) mod p of its 32 bytes and
changes nothing else; `fe.store` writes the 32-byte little-endian encoding of FE[B], canonical, and no other
byte; `fe.load` then `fe.store` of a canonical string gives the string back. -/
def Obligations.FieldLoadAndStore : Prop :=
  ∀ s : State,
    (∀ a : Idx, s.arg 0 + 32 ≤ s.dbufSize →
      ∃ t, exec (.feLoad a) s = .next t ∧ t = { s.completedWith .ok with fe := t.fe } ∧
        t.fe[a].val = leNat (s.dbuf.readBytes (s.arg 0) 32) % 2 ^ 255 % p ∧
        ∀ r : Idx, r ≠ a → t.fe[r] = s.fe[r]) ∧
    (∀ b : Idx, s.dbuf.wf → s.arg 0 + 32 ≤ s.dbufSize →
      ∃ t, exec (.feStore b) s = .next t ∧ t = { s.completedWith .ok with dbuf := t.dbuf } ∧
        leNat (t.dbuf.readBytes (s.arg 0) 32) = s.fe[b].val ∧
        s.dbuf.SameOutside t.dbuf (s.arg 0) 32) ∧
    ∀ (r : Idx) (a a' : Vector Word 8), s.dbuf.wf →
      a[0].toNat + 32 ≤ s.dbufSize → a'[0].toNat + 32 ≤ s.dbufSize →
      leNat (s.dbuf.readBytes a[0].toNat 32) < p →
      ∃ t, runSeq [(a, .feLoad r), (a', .feStore r)] s = .next t ∧
        t.dbuf.readBytes a'[0].toNat 32 = s.dbuf.readBytes a[0].toNat 32

/-- R146 to R152: each register command of the field unit completes in every state, sets FE[A] to the exact
residue, its sources read before its destination is written, and changes no other register, flag, special
register or byte. R154: `fe.cswap` exchanges FE[A] and FE[B] when ARG0[0] = 1 and changes nothing when it is
0, ARG0[31:1] ignored. -/
def Obligations.FieldCommandsGiveExactResidues : Prop :=
  ∀ (s : State) (a b c : Idx),
    (∀ (i : Instr) (v : Nat),
      (i = .feSeti a ∧ v = s.arg 0) ∨
      (i = .feMov a b ∧ v = s.fe[b].val) ∨
      (i = .feAdd a b c ∧ v = (s.fe[b].val + s.fe[c].val) % p) ∨
      (i = .feSub a b c ∧ (v : Int) = ((s.fe[b].val : Int) - (s.fe[c].val : Int)) % (p : Int)) ∨
      (i = .feMul a b c ∧ v = (s.fe[b].val * s.fe[c].val) % p) ∨
      (i = .feSqr a b ∧ v = (s.fe[b].val * s.fe[b].val) % p) ∨
      (i = .feMula24 a b ∧ v = (121665 * s.fe[b].val) % p) →
      ∃ t, exec i s = .next t ∧ t = { s.completedWith .ok with fe := t.fe } ∧ t.fe[a].val = v ∧
        ∀ r : Idx, r ≠ a → t.fe[r] = s.fe[r]) ∧
    ∃ t, exec (.feCswap a b) s = .next t ∧ t = { s.completedWith .ok with fe := t.fe } ∧
      (s.arg 0 % 2 = 0 → t.fe = s.fe) ∧
      (s.arg 0 % 2 = 1 → t.fe[a] = s.fe[b] ∧ t.fe[b] = s.fe[a]) ∧
      ∀ r : Idx, r ≠ a → r ≠ b → t.fe[r] = s.fe[r]

/-- R153: `fe.inv` sets FE[A] to FE[B]^(p−2) mod p, for zero too; for FE[B] ≠ 0 that times FE[B] is 1 mod p
(Fermat's little theorem, p prime). It changes no other register. -/
def Obligations.FeInvIsThePowerAndInverts : Prop :=
  ∀ (s : State) (a b : Idx),
    ∃ t, exec (.feInv a b) s = .next t ∧ t = { s.completedWith .ok with fe := t.fe } ∧
      t.fe[a].val = s.fe[b].val ^ (p - 2) % p ∧
      (s.fe[b].val ≠ 0 → s.fe[b].val * t.fe[a].val % p = 1) ∧
      ∀ r : Idx, r ≠ a → t.fe[r] = s.fe[r]

/-! ### X25519 (42_x25519.md) -/

/-- R174, R170, R175: `x.ldscalar` loads the clamped little-endian scalar, bit by bit, and sets
X_SCALAR_VALID; `x.init fB` starts the ladder at u = FE[B], read first, and sets X_LADDER_ACTIVE. -/
def Obligations.LdscalarClampsAndInitStarts : Prop :=
  ∀ s : State,
    (s.arg 0 + 32 ≤ s.dbufSize →
      ∃ t, exec .xLdscalar s = .next t ∧
        t = { s.completedWith .ok with
              scalar := t.scalar, flags := { s.flags with xScalarValid := true } } ∧
        ∀ n, n < 256 → t.scalar.getLsbD n =
          if n < 3 ∨ n = 255 then false else if n = 254 then true
          else (s.dbuf.readByte (s.arg 0 + n / 8)).getLsbD (n % 8)) ∧
    ∀ b : Idx,
      ∃ t, exec (.xInit b) s = .next t ∧
        t = { s.completedWith .ok with
              fe := t.fe, swap := false, flags := { s.flags with xLadderActive := true } } ∧
        t.fe[0] = s.fe[b] ∧ t.fe[1].val = 1 ∧ t.fe[2].val = 0 ∧ t.fe[3] = s.fe[b] ∧
        t.fe[4].val = 1 ∧ ∀ r : Idx, 5 ≤ r.val → t.fe[r] = s.fe[r]

/-- R176, R172: one ladder step, in GF(p), on bit t of SCALAR. -/
def Obligations.LadderStepFormulas : Prop :=
  ∀ (s : State) (n : Fin 256), s.flags.xScalarValid = true → s.flags.xLadderActive = true →
    ∃ t, exec (.xStep n) s = .next t ∧
      t = { s.completedWith .ok with fe := t.fe, swap := t.swap } ∧
      (let f : Idx → ZMod p := fun r => (s.fe[r].val : ZMod p)
       let g : Idx → ZMod p := fun r => (t.fe[r].val : ZMod p)
       let kt := s.scalar.getLsbD n
       let c := s.swap ^^ kt
       let x2 := if c then f 3 else f 1
       let z2 := if c then f 4 else f 2
       let x3 := if c then f 1 else f 3
       let z3 := if c then f 2 else f 4
       let aa := (x2 + z2) ^ 2
       let bb := (x2 - z2) ^ 2
       let e := aa - bb
       let da := (x3 - z3) * (x2 + z2)
       let cb := (x3 + z3) * (x2 - z2)
       t.swap = kt ∧ t.fe[0] = s.fe[0] ∧
       g 1 = aa * bb ∧ g 2 = e * (aa + 121665 * e) ∧
       g 3 = (da + cb) ^ 2 ∧ g 4 = f 0 * (da - cb) ^ 2) ∧
      ∀ r : Idx, 5 ≤ r.val → t.fe[r] = s.fe[r]

/-- R177: `x.finish fA` settles the pending swap, sets FE[A] to x2 · z2^(p−2) mod p last, and clears
SCALAR, SWAP and both flags. -/
def Obligations.FinishDividesAndClears : Prop :=
  ∀ (s : State) (a : Idx), s.flags.xLadderActive = true →
    ∃ t, exec (.xFinish a) s = .next t ∧
      t = { s.completedWith .ok with
            fe := t.fe, scalar := 0#256, swap := false
            flags := { s.flags with xScalarValid := false, xLadderActive := false } } ∧
      (let x2 := if s.swap then s.fe[3] else s.fe[1]
       let z2 := if s.swap then s.fe[4] else s.fe[2]
       let x3 := if s.swap then s.fe[1] else s.fe[3]
       let z3 := if s.swap then s.fe[2] else s.fe[4]
       t.fe[a].val = x2.val * (z2.val ^ (p - 2) % p) % p ∧
       ∀ r : Idx, r ≠ a → t.fe[r] =
         if r = 1 then x2 else if r = 2 then z2 else if r = 3 then x3 else if r = 4 then z3
         else s.fe[r])

/-- R178, R179: `x25519` and `x.keygen` on regions that R72 and R73 allow (u, or the random bytes, may be
replaced in place) write X25519(K, U), or the clamped key and its public key, and no other byte. -/
def Obligations.ScalarMultiplicationWritesItsOutputs : Prop :=
  ∀ s : State, s.dbuf.wf → s.arg 0 + 32 ≤ s.dbufSize → s.arg 1 + 32 ≤ s.dbufSize →
    s.arg 2 + 32 ≤ s.dbufSize →
    (Apart (s.arg 0) 32 (s.arg 2) 32 → (s.arg 1 = s.arg 2 ∨ Apart (s.arg 1) 32 (s.arg 2) 32) →
      ∃ t, exec .x25519 s = .next t ∧ t = { s.completedWith .ok with dbuf := t.dbuf } ∧
        t.dbuf.readBytes (s.arg 2) 32 =
          x25519 (s.dbuf.readBytes (s.arg 0) 32) (s.dbuf.readBytes (s.arg 1) 32) ∧
        s.dbuf.SameOutside t.dbuf (s.arg 2) 32) ∧
    ((s.arg 0 = s.arg 1 ∨ Apart (s.arg 0) 32 (s.arg 1) 32) → Apart (s.arg 0) 32 (s.arg 2) 32 →
      Apart (s.arg 1) 32 (s.arg 2) 32 →
      ∃ t, exec .xKeygen s = .next t ∧ t = { s.completedWith .ok with dbuf := t.dbuf } ∧
        t.dbuf.readBytes (s.arg 1) 32 = clamp (s.dbuf.readBytes (s.arg 0) 32) ∧
        t.dbuf.readBytes (s.arg 2) 32 =
          x25519 (clamp (s.dbuf.readBytes (s.arg 0) 32)) (9#8 :: List.replicate 31 0#8) ∧
        ∀ k, (k < s.arg 1 ∨ s.arg 1 + 32 ≤ k) → (k < s.arg 2 ∨ s.arg 2 + 32 ≤ k) →
          t.dbuf.readByte k = s.dbuf.readByte k)

/-- R180: the staged ladder (`fe.load`, `x.ldscalar`, `x.init`, `x.step 254` down to `x.step 0`,
`x.finish f5`, `fe.store f5`), with u in any register other than 0 to 4, writes X25519(K, U). -/
def Obligations.StagedLadderIsX25519 : Prop :=
  ∀ (s : State) (r : Idx) (a b q : Vector Word 8), 5 ≤ r.val → s.dbuf.wf →
    a[0].toNat + 32 ≤ s.dbufSize → b[0].toNat + 32 ≤ s.dbufSize → q[0].toNat + 32 ≤ s.dbufSize →
    ∃ t, runSeq
        ([(a, .feLoad r), (b, .xLdscalar), (b, .xInit r)] ++
          ((List.finRange 255).reverse.map fun n => (b, .xStep (n.castLE (by decide)))) ++
          [(b, .xFinish 5), (q, .feStore 5)]) s = .next t ∧
      t.dbuf.readBytes q[0].toNat 32 =
        x25519 (s.dbuf.readBytes b[0].toNat 32) (s.dbuf.readBytes a[0].toNat 32) ∧
      s.dbuf.SameOutside t.dbuf q[0].toNat 32

/-! ### ChaCha20 (43_chacha20.md) -/

/-- R196, R191, R190: `cc.init` loads the four constants, the key words, the counter and the nonce words, each
word little-endian, into S0 and X. -/
def Obligations.CcInitLoadsTheState : Prop :=
  ∀ s : State, s.arg 0 + 32 ≤ s.dbufSize → s.arg 1 + 12 ≤ s.dbufSize →
    ∃ t, exec .ccInit s = .next t ∧
      t = { s.completedWith .ok with
            s0 := t.s0, x := t.s0, flags := { s.flags with ccKeyed := true } } ∧
      t.s0[0] = 0x61707865#32 ∧ t.s0[1] = 0x3320646E#32 ∧ t.s0[2] = 0x79622D32#32 ∧
      t.s0[3] = 0x6B206574#32 ∧
      (∀ i : Fin 8, t.s0[4 + i.val].toNat = leNat (s.dbuf.readBytes (s.arg 0 + 4 * i.val) 4)) ∧
      t.s0[12] = s.args[2] ∧
      (∀ i : Fin 3, t.s0[13 + i.val].toNat = leNat (s.dbuf.readBytes (s.arg 1 + 4 * i.val) 4)) ∧
      t.s0 = chaChaInit (s.dbuf.readBytes (s.arg 0) 32) (s.dbuf.readBytes (s.arg 1) 12) s.args[2]

/-- R197, R192: `cc.qr a, b, c, d` runs the four lines in their order, on aliased indices too. -/
def Obligations.QuarterRoundLines : Prop :=
  ∀ (s : State) (a b c d : Idx), s.flags.ccKeyed = true →
    ∃ t, exec (.ccQr a b c d) s = .next t ∧ t = { s.completedWith .ok with x := t.x } ∧
      (let x1 := s.x.set a (s.x[a] + s.x[b])
       let x2 := x1.set d ((x1[d] ^^^ x1[a]).rotateLeft 16)
       let x3 := x2.set c (x2[c] + x2[d])
       let x4 := x3.set b ((x3[b] ^^^ x3[c]).rotateLeft 12)
       let x5 := x4.set a (x4[a] + x4[b])
       let x6 := x5.set d ((x5[d] ^^^ x5[a]).rotateLeft 8)
       let x7 := x6.set c (x6[c] + x6[d])
       t.x = x7.set b ((x7[b] ^^^ x7[c]).rotateLeft 7))

/-- R198's law, R199: `cc.dround` is the eight `cc.qr` of `cc.dround.staged`, and `cc.loadx` sets X to
S0. -/
def Obligations.DoubleRoundIsEightQuarterRounds : Prop :=
  ∀ s : State, s.flags.ccKeyed = true →
    (∃ t, exec .ccDround s = .next t ∧ t = { s.completedWith .ok with x := t.x } ∧
      runSeq [(s.args, .ccQr 0 4 8 12), (s.args, .ccQr 1 5 9 13), (s.args, .ccQr 2 6 10 14),
        (s.args, .ccQr 3 7 11 15), (s.args, .ccQr 0 5 10 15), (s.args, .ccQr 1 6 11 12),
        (s.args, .ccQr 2 7 8 13), (s.args, .ccQr 3 4 9 14)] s = .next t) ∧
    exec .ccLoadx s = .next { s.completedWith .ok with x := s.s0 }

/-- R200, R195, R203: `cc.addout` writes the words X[i] + S0[i], little-endian, advances the counter by
one mod 2^32, and leaves X and the other words of S0. -/
def Obligations.AddoutWritesTheSum : Prop :=
  ∀ s : State, s.flags.ccKeyed = true → s.dbuf.wf → s.arg 0 + 64 ≤ s.dbufSize →
    ∃ t, exec .ccAddout s = .next t ∧
      t = { s.completedWith .ok with dbuf := t.dbuf, s0 := s.s0.set 12 (s.s0[12] + 1#32) } ∧
      (∀ i : Idx, leNat (t.dbuf.readBytes (s.arg 0 + 4 * i.val) 4) = (s.x[i] + s.s0[i]).toNat) ∧
      s.dbuf.SameOutside t.dbuf (s.arg 0) 64

/-- R204, R201, R194: `cc.block` leaves the same state as `cc.loadx`, ten `cc.dround`, then `cc.addout`, and
what it leaves in X and in its output is Block(S0). -/
def Obligations.BlockLaw : Prop :=
  ∀ s : State, s.flags.ccKeyed = true → s.dbuf.wf → s.arg 0 + 64 ≤ s.dbufSize →
    ∃ t, exec .ccBlock s = .next t ∧
      t = { s.completedWith .ok with
            dbuf := t.dbuf, x := t.x, s0 := s.s0.set 12 (s.s0[12] + 1#32) } ∧
      s.dbuf.SameOutside t.dbuf (s.arg 0) 64 ∧
      t.x = (chaChaBlock s.s0).1 ∧ t.dbuf.readBytes (s.arg 0) 64 = (chaChaBlock s.s0).2 ∧
      runSeq ((s.args, .ccLoadx) :: List.replicate 10 (s.args, .ccDround) ++
        [(s.args, .ccAddout)]) s = .next t

/-- R202, R203, R204: `cc.xor` over len bytes, in place or apart, XORs byte j with byte j mod 64 of the
block whose counter is S0[12] + j/64, leaves in X the post-round matrix of the last block, advances the
counter by ⌈len/64⌉ mod 2^32, and with len = 0 changes nothing. -/
def Obligations.XorWithTheKeystream : Prop :=
  ∀ s : State, s.flags.ccKeyed = true → s.dbuf.wf → Fits (s.arg 0) (s.arg 2) s.dbufSize →
    Fits (s.arg 1) (s.arg 2) s.dbufSize →
    (s.arg 0 = s.arg 1 ∨ Apart (s.arg 0) (s.arg 2) (s.arg 1) (s.arg 2)) →
    ∃ t, exec .ccXor s = .next t ∧
      t = { s.completedWith .ok with
            dbuf := t.dbuf, x := t.x
            s0 := s.s0.set 12 (s.s0[12] + BitVec.ofNat 32 ((s.arg 2 + 63) / 64)) } ∧
      (∀ j, j < s.arg 2 → t.dbuf.readByte (s.arg 1 + j) =
        s.dbuf.readByte (s.arg 0 + j) ^^^ keystreamByte s.s0 j) ∧
      s.dbuf.SameOutside t.dbuf (s.arg 1) (s.arg 2) ∧
      (0 < s.arg 2 → t.x =
        (chaChaBlock (s.s0.set 12 (s.s0[12] + BitVec.ofNat 32 ((s.arg 2 - 1) / 64)))).1) ∧
      (s.arg 2 = 0 → t = s.completedWith .ok)

/-- R205: encryption and decryption are one operation. `cc.init`, `cc.xor` of P into C, the same `cc.init`,
`cc.xor` of C into Q leaves P in Q, for every counter and every length, when C overlaps neither key nor
nonce. -/
def Obligations.StreamIsAnInvolution : Prop :=
  ∀ (s : State) (k a b : Vector Word 8), s.dbuf.wf →
    k[0].toNat + 32 ≤ s.dbufSize → k[1].toNat + 12 ≤ s.dbufSize →
    b[2] = a[2] → b[0] = a[1] →
    Fits a[0].toNat a[2].toNat s.dbufSize → Fits a[1].toNat a[2].toNat s.dbufSize →
    Fits b[1].toNat a[2].toNat s.dbufSize →
    (a[0] = a[1] ∨ Apart a[0].toNat a[2].toNat a[1].toNat a[2].toNat) →
    (a[1] = b[1] ∨ Apart a[1].toNat a[2].toNat b[1].toNat a[2].toNat) →
    Apart k[0].toNat 32 a[1].toNat a[2].toNat → Apart k[1].toNat 12 a[1].toNat a[2].toNat →
    ∃ t, runSeq [(k, .ccInit), (a, .ccXor), (k, .ccInit), (b, .ccXor)] s = .next t ∧
      t.dbuf.readBytes b[1].toNat a[2].toNat = s.dbuf.readBytes a[0].toNat a[2].toNat

/-! ### Poly1305 (44_poly1305.md) -/

/-- R213, R211: `p.key` splits and clamps the key, zeroes PH and sets P_KEYED. R214, R215, R216: `p.acc` adds
LE(c) + 2^(8·len) to PH, `p.mul` multiplies PH by PR, both mod p130, and `p.update` does both for each
16-byte chunk, a short last one too. -/
def Obligations.PolyStageFormulas : Prop :=
  ∀ s : State,
    (s.arg 0 + 32 ≤ s.dbufSize →
      ∃ t, exec .pKey s = .next t ∧
        t = { s.completedWith .ok with
              pr := t.pr, ps := t.ps, ph := phZero, flags := { s.flags with pKeyed := true } } ∧
        t.pr.toNat =
          leNat (s.dbuf.readBytes (s.arg 0) 16) &&& 0x0FFFFFFC0FFFFFFC0FFFFFFC0FFFFFFF ∧
        t.ps.toNat = leNat (s.dbuf.readBytes (s.arg 0 + 16) 16)) ∧
    (s.flags.pKeyed = true → 1 ≤ s.arg 1 → s.arg 1 ≤ 16 → s.arg 0 + s.arg 1 ≤ s.dbufSize →
      ∃ t, exec .pAcc s = .next t ∧ t = { s.completedWith .ok with ph := t.ph } ∧
        t.ph.val =
          (s.ph.val + leNat (s.dbuf.readBytes (s.arg 0) (s.arg 1)) + 2 ^ (8 * s.arg 1)) % p130) ∧
    (s.flags.pKeyed = true →
      ∃ t, exec .pMul s = .next t ∧ t = { s.completedWith .ok with ph := t.ph } ∧
        t.ph.val = s.ph.val * s.pr.toNat % p130) ∧
    (s.flags.pKeyed = true → Fits (s.arg 0) (s.arg 1) s.dbufSize →
      ∃ t, exec .pUpdate s = .next t ∧ t = { s.completedWith .ok with ph := t.ph } ∧
        t.ph.val = (List.range ((s.arg 1 + 15) / 16)).foldl
          (fun h j =>
            let n := min 16 (s.arg 1 - 16 * j)
            (h + leNat (s.dbuf.readBytes (s.arg 0 + 16 * j) n) + 2 ^ (8 * n)) * s.pr.toNat % p130)
          s.ph.val)

/-- R217, R220: `p.final` writes LE_16((PH + PS) mod 2^128) and clears the key, so that a second `p.final`
is E_SEQUENCE. -/
def Obligations.PolyFinalIsSingleUse : Prop :=
  ∀ s : State, s.flags.pKeyed = true → s.dbuf.wf → s.arg 0 + 16 ≤ s.dbufSize →
    ∃ t, exec .pFinal s = .next t ∧
      t = { s.completedWith .ok with
            dbuf := t.dbuf, pr := 0#128, ps := 0#128, ph := phZero
            flags := { s.flags with pKeyed := false } } ∧
      leNat (t.dbuf.readBytes (s.arg 0) 16) = (s.ph.val + s.ps.toNat) % 2 ^ 128 ∧
      s.dbuf.SameOutside t.dbuf (s.arg 0) 16 ∧
      exec .pFinal t = .next (t.completedWith .sequence)

/-- R216's law, R219, R218: `p.key`; `p.update` of a first part whose length is a multiple of 16;
`p.update` of the rest; `p.final` writes the tag that `p.mac` of the whole message writes, and `p.mac`
writes nothing but its tag, the Poly1305 of key and message. -/
def Obligations.StreamedPolyIsOneShotPoly : Prop :=
  ∀ (s : State) (k a b q : Vector Word 8), s.dbuf.wf → Fits s.args[1].toNat s.args[2].toNat s.dbufSize →
    s.args[0].toNat + 32 ≤ s.dbufSize → s.args[3].toNat + 16 ≤ s.dbufSize →
    Apart s.args[0].toNat 32 s.args[3].toNat 16 →
    Apart s.args[1].toNat s.args[2].toNat s.args[3].toNat 16 →
    k[0] = s.args[0] → a[0] = s.args[1] → a[1].toNat % 16 = 0 →
    a[0].toNat + a[1].toNat = b[0].toNat → a[1].toNat + b[1].toNat = s.args[2].toNat →
    q[0] = s.args[3] →
    ∃ t u, exec .pMac s = .next t ∧ t = { s.completedWith .ok with dbuf := t.dbuf } ∧
      s.dbuf.SameOutside t.dbuf s.args[3].toNat 16 ∧
      t.dbuf.readBytes s.args[3].toNat 16 = poly1305 (s.dbuf.readBytes s.args[0].toNat 32)
        (s.dbuf.readBytes s.args[1].toNat s.args[2].toNat) ∧
      runSeq [(k, .pKey), (a, .pUpdate), (b, .pUpdate), (q, .pFinal)] s = .next u ∧
      u.dbuf = t.dbuf

/-! ### AEAD (45_aead.md) -/

/-- R232, R230, R231: `aead.enc` writes the plaintext XOR the keystream from counter 1, and the Poly1305 tag
over aad, padding, ciphertext, padding and the two 8-byte lengths under the first 32 bytes of the block at
counter 0; no other byte and no stage state. The ciphertext may replace the plaintext in place. -/
def Obligations.AeadEncWritesCiphertextAndTag : Prop :=
  ∀ s : State, s.dbuf.wf → s.arg 0 + 32 ≤ s.dbufSize → s.arg 1 + 12 ≤ s.dbufSize →
    Fits (s.arg 2) (s.arg 3) s.dbufSize → Fits (s.arg 4) (s.arg 5) s.dbufSize →
    Fits (s.arg 6) (s.arg 5) s.dbufSize → s.arg 7 + 16 ≤ s.dbufSize →
    Apart (s.arg 6) (s.arg 5) (s.arg 7) 16 →
    Apart (s.arg 0) 32 (s.arg 6) (s.arg 5) → Apart (s.arg 1) 12 (s.arg 6) (s.arg 5) →
    Apart (s.arg 2) (s.arg 3) (s.arg 6) (s.arg 5) →
    (s.arg 4 = s.arg 6 ∨ Apart (s.arg 4) (s.arg 5) (s.arg 6) (s.arg 5)) →
    Apart (s.arg 0) 32 (s.arg 7) 16 → Apart (s.arg 1) 12 (s.arg 7) 16 →
    Apart (s.arg 2) (s.arg 3) (s.arg 7) 16 → Apart (s.arg 4) (s.arg 5) (s.arg 7) 16 →
    ∃ t, exec .aeadEnc s = .next t ∧ t = { s.completedWith .ok with dbuf := t.dbuf } ∧
      (let key := s.dbuf.readBytes (s.arg 0) 32
       let nonce := s.dbuf.readBytes (s.arg 1) 12
       let aad := s.dbuf.readBytes (s.arg 2) (s.arg 3)
       let ct := t.dbuf.readBytes (s.arg 6) (s.arg 5)
       (∀ j, j < s.arg 5 → t.dbuf.readByte (s.arg 6 + j) =
         s.dbuf.readByte (s.arg 4 + j) ^^^ keystreamByte (chaChaInit key nonce 1#32) j) ∧
       t.dbuf.readBytes (s.arg 7) 16 =
         poly1305 ((chaChaBlock (chaChaInit key nonce 0#32)).2.take 32)
           (aad ++ List.replicate ((16 - s.arg 3 % 16) % 16) 0#8 ++
            ct ++ List.replicate ((16 - s.arg 5 % 16) % 16) 0#8 ++
            leBytes 8 (s.arg 3) ++ leBytes 8 (s.arg 5))) ∧
      ∀ k, (k < s.arg 6 ∨ s.arg 6 + s.arg 5 ≤ k) → (k < s.arg 7 ∨ s.arg 7 + 16 ≤ k) →
        t.dbuf.readByte k = s.dbuf.readByte k

/-- R233, R235, R307: `aead.dec`, its checks passed, releases the plaintext and sets RESULT = 0 when the
tag agrees in all 16 bytes; when it differs in any it completes with E_AUTH, RESULT = 1, and changes no
byte of DBUF and nothing else. -/
def Obligations.AeadDecVerifiesBeforeRelease : Prop :=
  ∀ s : State, s.dbuf.wf → s.arg 0 + 32 ≤ s.dbufSize → s.arg 1 + 12 ≤ s.dbufSize →
    Fits (s.arg 2) (s.arg 3) s.dbufSize → Fits (s.arg 4) (s.arg 5) s.dbufSize →
    Fits (s.arg 6) (s.arg 5) s.dbufSize → s.arg 7 + 16 ≤ s.dbufSize →
    Apart (s.arg 0) 32 (s.arg 6) (s.arg 5) → Apart (s.arg 1) 12 (s.arg 6) (s.arg 5) →
    Apart (s.arg 2) (s.arg 3) (s.arg 6) (s.arg 5) →
    (s.arg 4 = s.arg 6 ∨ Apart (s.arg 4) (s.arg 5) (s.arg 6) (s.arg 5)) →
    Apart (s.arg 7) 16 (s.arg 6) (s.arg 5) →
    (let key := s.dbuf.readBytes (s.arg 0) 32
     let nonce := s.dbuf.readBytes (s.arg 1) 12
     let tag := poly1305 ((chaChaBlock (chaChaInit key nonce 0#32)).2.take 32)
       (s.dbuf.readBytes (s.arg 2) (s.arg 3) ++ List.replicate ((16 - s.arg 3 % 16) % 16) 0#8 ++
        s.dbuf.readBytes (s.arg 4) (s.arg 5) ++ List.replicate ((16 - s.arg 5 % 16) % 16) 0#8 ++
        leBytes 8 (s.arg 3) ++ leBytes 8 (s.arg 5))
     (s.dbuf.readBytes (s.arg 7) 16 ≠ tag →
       exec .aeadDec s = .next { s.completedWith .auth with result := true }) ∧
     (s.dbuf.readBytes (s.arg 7) 16 = tag →
       ∃ t, exec .aeadDec s = .next t ∧
         t = { s.completedWith .ok with dbuf := t.dbuf, result := false } ∧
         (∀ j, j < s.arg 5 → t.dbuf.readByte (s.arg 6 + j) =
           s.dbuf.readByte (s.arg 4 + j) ^^^ keystreamByte (chaChaInit key nonce 1#32) j) ∧
         s.dbuf.SameOutside t.dbuf (s.arg 6) (s.arg 5)))

/-- R239: `aead.dec` of `aead.enc`'s output gives back the plaintext with RESULT = 0 and ERRCODE OK, for
every key, nonce, aad and plaintext that fit, on regions that R72 and R73 allow the first command, when the
second's output is apart from what it reads (or replaces the ciphertext in place). -/
def Obligations.AeadRoundTrip : Prop :=
  ∀ (s : State) (b : Vector Word 8), s.dbuf.wf → s.arg 0 + 32 ≤ s.dbufSize → s.arg 1 + 12 ≤ s.dbufSize →
    Fits (s.arg 2) (s.arg 3) s.dbufSize → Fits (s.arg 4) (s.arg 5) s.dbufSize →
    Fits (s.arg 6) (s.arg 5) s.dbufSize → s.arg 7 + 16 ≤ s.dbufSize →
    Apart (s.arg 6) (s.arg 5) (s.arg 7) 16 →
    Apart (s.arg 0) 32 (s.arg 6) (s.arg 5) → Apart (s.arg 1) 12 (s.arg 6) (s.arg 5) →
    Apart (s.arg 2) (s.arg 3) (s.arg 6) (s.arg 5) →
    (s.arg 4 = s.arg 6 ∨ Apart (s.arg 4) (s.arg 5) (s.arg 6) (s.arg 5)) →
    Apart (s.arg 0) 32 (s.arg 7) 16 → Apart (s.arg 1) 12 (s.arg 7) 16 →
    Apart (s.arg 2) (s.arg 3) (s.arg 7) 16 → Apart (s.arg 4) (s.arg 5) (s.arg 7) 16 →
    b[0] = s.args[0] → b[1] = s.args[1] → b[2] = s.args[2] → b[3] = s.args[3] →
    b[4] = s.args[6] → b[5] = s.args[5] → b[7] = s.args[7] →
    Fits b[6].toNat b[5].toNat s.dbufSize →
    Apart b[0].toNat 32 b[6].toNat b[5].toNat → Apart b[1].toNat 12 b[6].toNat b[5].toNat →
    Apart b[2].toNat b[3].toNat b[6].toNat b[5].toNat →
    (b[4] = b[6] ∨ Apart b[4].toNat b[5].toNat b[6].toNat b[5].toNat) →
    Apart b[7].toNat 16 b[6].toNat b[5].toNat →
    ∃ t, runSeq [(s.args, .aeadEnc), (b, .aeadDec)] s = .next t ∧ t.errCode = .ok ∧
      t.result = false ∧
      t.dbuf.readBytes b[6].toNat b[5].toNat = s.dbuf.readBytes (s.arg 4) (s.arg 5)

/-! ### SHA-256 (46_sha256.md) -/

/-- R251, R252, R257, R262, R261: the 64 round constants; `sha.init` starts a context at H0 with W and WV zero; `sha.fold` adds WV to SH word by
word; `sha.round t` for t < 64 is the round of R254 and R250 on (a, …, h) with K[t] and W[t]. -/
def Obligations.ShaStageFormulas : Prop :=
  (shaK.toList =
    [0x428a2f98#32, 0x71374491#32, 0xb5c0fbcf#32, 0xe9b5dba5#32, 0x3956c25b#32, 0x59f111f1#32, 0x923f82a4#32, 0xab1c5ed5#32] ++
    [0xd807aa98#32, 0x12835b01#32, 0x243185be#32, 0x550c7dc3#32, 0x72be5d74#32, 0x80deb1fe#32, 0x9bdc06a7#32, 0xc19bf174#32] ++
    [0xe49b69c1#32, 0xefbe4786#32, 0x0fc19dc6#32, 0x240ca1cc#32, 0x2de92c6f#32, 0x4a7484aa#32, 0x5cb0a9dc#32, 0x76f988da#32] ++
    [0x983e5152#32, 0xa831c66d#32, 0xb00327c8#32, 0xbf597fc7#32, 0xc6e00bf3#32, 0xd5a79147#32, 0x06ca6351#32, 0x14292967#32] ++
    [0x27b70a85#32, 0x2e1b2138#32, 0x4d2c6dfc#32, 0x53380d13#32, 0x650a7354#32, 0x766a0abb#32, 0x81c2c92e#32, 0x92722c85#32] ++
    [0xa2bfe8a1#32, 0xa81a664b#32, 0xc24b8b70#32, 0xc76c51a3#32, 0xd192e819#32, 0xd6990624#32, 0xf40e3585#32, 0x106aa070#32] ++
    [0x19a4c116#32, 0x1e376c08#32, 0x2748774c#32, 0x34b0bcb5#32, 0x391c0cb3#32, 0x4ed8aa4a#32, 0x5b9cca4f#32, 0x682e6ff3#32] ++
    [0x748f82ee#32, 0x78a5636f#32, 0x84c87814#32, 0x8cc70208#32, 0x90befffa#32, 0xa4506ceb#32, 0xbef9a3f7#32, 0xc67178f2#32]) ∧
  ∀ s : State,
    exec .shaInit s = .next { s.completedWith .ok with
      sh := #v[0x6a09e667#32, 0xbb67ae85#32, 0x3c6ef372#32, 0xa54ff53a#32, 0x510e527f#32,
               0x9b05688c#32, 0x1f83d9ab#32, 0x5be0cd19#32]
      blen := 0#64, pb := [], w := Vector.replicate 64 0#32, wv := Vector.replicate 8 0#32
      flags := { s.flags with shaActive := true } } ∧
    (s.flags.shaActive = true →
      ∃ t, exec .shaFold s = .next t ∧ t = { s.completedWith .ok with sh := t.sh } ∧
        ∀ i : Fin 8, t.sh[i] = s.sh[i] + s.wv[i]) ∧
    ∀ (n : Fin 256) (_ : n.val < 64), s.flags.shaActive = true →
      ∃ t, exec (.shaRound n) s = .next t ∧ t = { s.completedWith .ok with wv := t.wv } ∧
        (let a := s.wv[0]; let b := s.wv[1]; let c := s.wv[2]; let e := s.wv[4]
         let f := s.wv[5]; let g := s.wv[6]
         let t1 := s.wv[7] + (e.rotateRight 6 ^^^ e.rotateRight 11 ^^^ e.rotateRight 25) +
           ((e &&& f) ^^^ (~~~e &&& g)) + shaK[n.val] + s.w[n.val]
         let t2 := (a.rotateRight 2 ^^^ a.rotateRight 13 ^^^ a.rotateRight 22) +
           ((a &&& b) ^^^ (a &&& c) ^^^ (b &&& c))
         t.wv = #v[t1 + t2, a, b, c, s.wv[3] + t1, e, f, g])

/-- R260, R253: `sha.loadblk` fills W with the schedule of its block (big-endian words, then the
recurrence) and WV with SH; BLEN and PB keep their values. -/
def Obligations.LoadblkFillsTheSchedule : Prop :=
  ∀ s : State, s.flags.shaActive = true → s.arg 0 + 64 ≤ s.dbufSize →
    ∃ t, exec .shaLoadblk s = .next t ∧ t = { s.completedWith .ok with w := t.w, wv := s.sh } ∧
      (∀ i : Idx, t.w[i.val].toNat = beNat (s.dbuf.readBytes (s.arg 0 + 4 * i.val) 4)) ∧
      (∀ i : Fin 48, t.w[i.val + 16] =
        (t.w[i.val + 14].rotateRight 17 ^^^ t.w[i.val + 14].rotateRight 19 ^^^ (t.w[i.val + 14] >>> 10)) +
        t.w[i.val + 9] +
        (t.w[i.val + 1].rotateRight 7 ^^^ t.w[i.val + 1].rotateRight 18 ^^^ (t.w[i.val + 1] >>> 3)) +
        t.w[i.val])

/-- R265: with SHA_ACTIVE = 1, `sha.loadblk`, `sha.round 0` to `sha.round 63`, `sha.fold` leave
SH = Compress(SH, block); `sha.update` of the same block with PB empty leaves the same SH, advances
BLEN by 512 and zeroes W and WV. -/
def Obligations.StagedCompressionIsCompress : Prop :=
  ∀ (s : State) (a : Vector Word 8), s.flags.shaActive = true → s.arg 0 + 64 ≤ s.dbufSize →
    ∃ t, runSeq ((s.args, .shaLoadblk) ::
        ((List.finRange 64).map fun n => (s.args, .shaRound (n.castLE (by decide)))) ++
        [(s.args, .shaFold)]) s = .next t ∧
      t.sh = shaCompress s.sh (s.dbuf.readBytes (s.arg 0) 64) ∧ t.blen = s.blen ∧ t.pb = s.pb ∧
      (s.pb = [] → a[0] = s.args[0] → a[1].toNat = 64 →
        ∃ u, exec .shaUpdate { s with args := a } = .next u ∧ u.sh = t.sh ∧ u.pb = [] ∧
          u.blen = s.blen + 512#64 ∧ u.w = Vector.replicate 64 0#32 ∧
          u.wv = Vector.replicate 8 0#32)

/-- R258, R264: `sha.update` compresses the whole 64-byte blocks of PB followed by the bytes read, in order,
keeps the rest in PB, advances BLEN, zeroes W and WV and changes nothing else; its law: for every split, two
`sha.update` leave the same state as one `sha.update` of the whole. -/
def Obligations.ShaUpdateSplits : Prop :=
  ∀ (s : State) (a b : Vector Word 8), s.flags.shaActive = true →
    Fits (s.arg 0) (s.arg 1) s.dbufSize → a[0] = s.args[0] →
    a[0].toNat + a[1].toNat = b[0].toNat → a[1].toNat + b[1].toNat = s.arg 1 →
    ∃ t, exec .shaUpdate s = .next t ∧
      t = { s.completedWith .ok with
            sh := t.sh, pb := t.pb
            blen := s.blen + BitVec.ofNat 64 (8 * s.arg 1)
            w := Vector.replicate 64 0#32, wv := Vector.replicate 8 0#32 } ∧
      (let d := s.pb ++ s.dbuf.readBytes (s.arg 0) (s.arg 1)
       t.sh = (List.range (d.length / 64)).foldl
         (fun h j => shaCompress h ((d.drop (64 * j)).take 64)) s.sh ∧
       t.pb = d.drop (64 * (d.length / 64))) ∧
      runSeq [(a, .shaUpdate), (b, .shaUpdate)] s = .next { t with args := b }

/-- R256, R259, R263: `sha.init`; `sha.update` of a message; `sha.final` writes the digest that `sha256` of
the message writes; `sha.final` zeroes the context; `sha256` writes its digest, SHA256 of the
message, and nothing else. -/
def Obligations.StreamedHashIsOneShotHash : Prop :=
  ∀ (s : State) (a b : Vector Word 8), s.dbuf.wf → Fits (s.arg 0) (s.arg 1) s.dbufSize →
    s.arg 2 + 32 ≤ s.dbufSize → Apart (s.arg 0) (s.arg 1) (s.arg 2) 32 →
    a[0] = s.args[0] → a[1] = s.args[1] → b[0] = s.args[2] →
    ∃ t u, exec .sha256 s = .next t ∧ t = { s.completedWith .ok with dbuf := t.dbuf } ∧
      s.dbuf.SameOutside t.dbuf (s.arg 2) 32 ∧
      t.dbuf.readBytes (s.arg 2) 32 = sha256 (s.dbuf.readBytes (s.arg 0) (s.arg 1)) ∧
      runSeq [(a, .shaInit), (a, .shaUpdate), (b, .shaFinal)] s = .next u ∧
      u = { s.completedWith .ok with
            dbuf := t.dbuf, args := b, sh := Vector.replicate 8 0#32, blen := 0#64, pb := []
            w := Vector.replicate 64 0#32, wv := Vector.replicate 8 0#32
            flags := { s.flags with shaActive := false } }

/-- R259: `sha.final` pads what PB holds with 0x80, zeros and BLEN up to whole blocks; the digest is the
big-endian SH after compressing them in order, and the context is zeroed. -/
def Obligations.ShaFinalPadsAndClears : Prop :=
  ∀ s : State, s.flags.shaActive = true → s.dbuf.wf → s.arg 0 + 32 ≤ s.dbufSize →
    ∃ t, exec .shaFinal s = .next t ∧
      t = { s.completedWith .ok with
            dbuf := t.dbuf, sh := Vector.replicate 8 0#32, blen := 0#64, pb := []
            w := Vector.replicate 64 0#32, wv := Vector.replicate 8 0#32
            flags := { s.flags with shaActive := false } } ∧
      (∀ k : Nat, k < 64 → (s.pb.length + 1 + k + 8) % 64 = 0 →
        let f := s.pb ++ [0x80#8] ++ List.replicate k 0#8 ++ beBytes 8 s.blen.toNat
        ∀ i : Fin 8, beNat (t.dbuf.readBytes (s.arg 0 + 4 * i.val) 4) =
          ((List.range (f.length / 64)).foldl
            (fun h j => shaCompress h ((f.drop (64 * j)).take 64)) s.sh)[i].toNat) ∧
      s.dbuf.SameOutside t.dbuf (s.arg 0) 32

/-! ### HMAC and HKDF (47_hmac_hkdf.md) -/

/-- R271, R270: `hmac` writes SHA256((K0 ⊕ opad) ‖ SHA256((K0 ⊕ ipad) ‖ M)) of its regions and nothing else,
K0 being the key padded to 64 bytes, hashed first when longer. -/
def Obligations.HmacIsNestedHash : Prop :=
  ∀ s : State, s.dbuf.wf → Fits (s.arg 0) (s.arg 1) s.dbufSize → Fits (s.arg 2) (s.arg 3) s.dbufSize →
    s.arg 4 + 32 ≤ s.dbufSize → Apart (s.arg 0) (s.arg 1) (s.arg 4) 32 →
    Apart (s.arg 2) (s.arg 3) (s.arg 4) 32 →
    ∃ t, exec .hmac s = .next t ∧ t = { s.completedWith .ok with dbuf := t.dbuf } ∧
      (let key := s.dbuf.readBytes (s.arg 0) (s.arg 1)
       let k0 := if 64 < s.arg 1 then sha256 key ++ List.replicate 32 0#8
         else key ++ List.replicate (64 - s.arg 1) 0#8
       t.dbuf.readBytes (s.arg 4) 32 = hmac key (s.dbuf.readBytes (s.arg 2) (s.arg 3)) ∧
       t.dbuf.readBytes (s.arg 4) 32 =
         sha256 (k0.map (· ^^^ 0x5c#8) ++
           sha256 (k0.map (· ^^^ 0x36#8) ++ s.dbuf.readBytes (s.arg 2) (s.arg 3)))) ∧
      s.dbuf.SameOutside t.dbuf (s.arg 4) 32

/-- R274, R272: `hkdf.extract` sets PRK to HMAC(salt, IKM), 32 zero bytes standing for an empty salt, sets
PRK_VALID, and writes no byte of DBUF. -/
def Obligations.ExtractSetsPrk : Prop :=
  ∀ s : State, Fits (s.arg 0) (s.arg 1) s.dbufSize → Fits (s.arg 2) (s.arg 3) s.dbufSize →
    ∃ t, exec .hkdfExtract s = .next t ∧
      t = { s.completedWith .ok with prk := t.prk, flags := { s.flags with prkValid := true } } ∧
      t.prk.toList =
        hmac (if s.arg 1 = 0 then List.replicate 32 0#8 else s.dbuf.readBytes (s.arg 0) (s.arg 1))
          (s.dbuf.readBytes (s.arg 2) (s.arg 3))

/-- R275, R273: `hkdf.expand` writes the first L bytes of T(1) ‖ T(2) ‖ …, where T(i) is the HMAC under PRK
of T(i−1) ‖ info ‖ byte(i), for 0 ≤ L ≤ 8160, then zeroes PRK and clears PRK_VALID, for L = 0 too. -/
def Obligations.ExpandWritesItsBlocks : Prop :=
  ∀ s : State, s.flags.prkValid = true → s.dbuf.wf → s.arg 3 ≤ 8160 →
    Fits (s.arg 0) (s.arg 1) s.dbufSize → Fits (s.arg 2) (s.arg 3) s.dbufSize →
    Apart (s.arg 0) (s.arg 1) (s.arg 2) (s.arg 3) →
    ∃ t, exec .hkdfExpand s = .next t ∧
      t = { s.completedWith .ok with
            dbuf := t.dbuf, prk := Vector.replicate 32 0#8
            flags := { s.flags with prkValid := false } } ∧
      (∃ T : Nat → List Byte, T 0 = [] ∧
        (∀ i, T (i + 1) = hmac s.prk.toList
          (T i ++ s.dbuf.readBytes (s.arg 0) (s.arg 1) ++ [BitVec.ofNat 8 (i + 1)])) ∧
        ∀ j, j < s.arg 3 →
          t.dbuf.readByte (s.arg 2 + j) = (T (j / 32 + 1)).getD (j % 32) 0#8) ∧
      s.dbuf.SameOutside t.dbuf (s.arg 2) (s.arg 3)

/-- R276, R274, R275: the one-shot `hkdf` writes the bytes that `hkdf.extract` then `hkdf.expand` write, and
leaves PRK and PRK_VALID; the staged pair ends with PRK zero, PRK_VALID 0, and a further `hkdf.expand` is
E_SEQUENCE. -/
def Obligations.StagedHkdfIsOneShotHkdf : Prop :=
  ∀ (s : State) (a b : Vector Word 8), s.dbuf.wf → s.arg 7 ≤ 8160 →
    Fits (s.arg 0) (s.arg 1) s.dbufSize → Fits (s.arg 2) (s.arg 3) s.dbufSize →
    Fits (s.arg 4) (s.arg 5) s.dbufSize → Fits (s.arg 6) (s.arg 7) s.dbufSize →
    Apart (s.arg 0) (s.arg 1) (s.arg 6) (s.arg 7) → Apart (s.arg 2) (s.arg 3) (s.arg 6) (s.arg 7) →
    Apart (s.arg 4) (s.arg 5) (s.arg 6) (s.arg 7) →
    a[0] = s.args[2] → a[1] = s.args[3] → a[2] = s.args[0] → a[3] = s.args[1] →
    b[0] = s.args[4] → b[1] = s.args[5] → b[2] = s.args[6] → b[3] = s.args[7] →
    ∃ t u, exec .hkdf s = .next t ∧ t = { s.completedWith .ok with dbuf := t.dbuf } ∧
      s.dbuf.SameOutside t.dbuf (s.arg 6) (s.arg 7) ∧
      runSeq [(a, .hkdfExtract), (b, .hkdfExpand)] s = .next u ∧
      u = { s.completedWith .ok with
            dbuf := t.dbuf, args := b, prk := Vector.replicate 32 0#8
            flags := { s.flags with prkValid := false } } ∧
      exec .hkdfExpand u = .next (u.completedWith .sequence)
end

