-- ==== Sys2Proof/Laws/Bytes.lean ====
section
/-! SUPPORT. The byte strings of Machine/Bytes.lean: lengths, and that the encodings of a number and the
number of a string undo each other. -/

namespace Sys2Proof.Laws

open Sys2Proof.Machine

@[simp] theorem leBytes_length (n v : Nat) : (leBytes n v).length = n := by
  induction n generalizing v with
  | zero => rfl
  | succ n ih => simp [leBytes, ih]

@[simp] theorem beBytes_length (n v : Nat) : (beBytes n v).length = n := by simp [beBytes]

@[simp] theorem zeros_length (n : Nat) : (zeros n).length = n := by simp [zeros]

@[simp] theorem slice_length (bs : List Byte) (a b : Nat) :
    (slice bs a b).length = min (b - a) (bs.length - a) := by simp [slice]

@[simp] theorem xorBytes_length (as bs : List Byte) :
    (xorBytes as bs).length = min as.length bs.length := by simp [xorBytes]

theorem leNat_lt (bs : List Byte) : leNat bs < 256 ^ bs.length := by
  induction bs with
  | nil => simp [leNat]
  | cons b bs ih =>
    have hb : b.toNat < 256 := b.isLt
    simp only [leNat, List.length_cons, pow_succ]
    omega

/-- LE(LE_n(v)) = v mod 256^n (R11). -/
theorem leNat_leBytes (n v : Nat) : leNat (leBytes n v) = v % 256 ^ n := by
  induction n generalizing v with
  | zero => simp [leBytes, leNat, Nat.mod_one]
  | succ n ih =>
    simp only [leBytes, leNat, ih, BitVec.toNat_ofNat]
    rw [show (256 : Nat) ^ (n + 1) = 256 * 256 ^ n by rw [pow_succ, mul_comm], Nat.mod_mul]

/-- LE_n(LE(B)) = B for a string of n bytes (R11). -/
theorem leBytes_leNat (bs : List Byte) : leBytes bs.length (leNat bs) = bs := by
  induction bs with
  | nil => rfl
  | cons b bs ih =>
    have hb : b.toNat < 256 := b.isLt
    have hq : (b.toNat + 256 * leNat bs) / 256 = leNat bs := by omega
    have hr : BitVec.ofNat 8 (b.toNat + 256 * leNat bs) = b := by
      apply BitVec.eq_of_toNat_eq
      simp only [BitVec.toNat_ofNat]
      omega
    simp [leBytes, leNat, hq, hr, ih]

theorem leNat_append (as bs : List Byte) :
    leNat (as ++ bs) = leNat as + 256 ^ as.length * leNat bs := by
  induction as with
  | nil => simp [leNat]
  | cons a as ih =>
    simp only [List.cons_append, leNat, ih, List.length_cons, pow_succ]
    ring

/-- The encoding depends only on the value mod 256^n (R11). -/
theorem leBytes_mod (n v : Nat) : leBytes n (v % 256 ^ n) = leBytes n v := by
  conv_rhs => rw [← leBytes_leNat (leBytes n v)]
  simp [leNat_leBytes]

/-- BE(BE_n(v)) = v mod 256^n (R11). -/
theorem beNat_beBytes (n v : Nat) : beNat (beBytes n v) = v % 256 ^ n := by
  simp [beNat, beBytes, leNat_leBytes]

/-- Exclusive or with one string twice gives the first back, where it is as long. -/
theorem xorBytes_xorBytes (as bs : List Byte) (h : as.length ≤ bs.length) :
    xorBytes (xorBytes as bs) bs = as := by
  induction as generalizing bs with
  | nil => simp [xorBytes]
  | cons a as ih =>
    cases bs with
    | nil => simp at h
    | cons b bs =>
      have := ih bs (by simpa using h)
      simp only [xorBytes, List.zipWith_cons_cons] at this ⊢
      rw [this, BitVec.xor_assoc, BitVec.xor_self, BitVec.xor_zero]

theorem foldl_or_eq_zero (bs : List Byte) (a : Byte) :
    bs.foldl (· ||| ·) a = 0#8 ↔ a = 0#8 ∧ ∀ b ∈ bs, b = 0#8 := by
  induction bs generalizing a with
  | nil => simp
  | cons b bs ih =>
    have hor : (a ||| b = 0#8) ↔ a = 0#8 ∧ b = 0#8 := BitVec.or_eq_zero_iff
    simp [ih, hor, and_assoc]

/-- The or over a string is 0 exactly when every byte is 0 (R133). -/
theorem orBytes_eq_zero (bs : List Byte) : orBytes bs = 0#8 ↔ ∀ b ∈ bs, b = 0#8 := by
  simp [orBytes, foldl_or_eq_zero]

/-- The comparator: the or of the bytewise exclusive or is 0 exactly when the strings are equal
(R133, R233). -/
theorem orBytes_xorBytes_eq_zero (as bs : List Byte) (h : as.length = bs.length) :
    orBytes (xorBytes as bs) = 0#8 ↔ as = bs := by
  rw [orBytes_eq_zero]
  induction as generalizing bs with
  | nil => cases bs <;> simp_all [xorBytes]
  | cons a as ih =>
    cases bs with
    | nil => simp at h
    | cons b bs =>
      have := ih bs (by simpa using h)
      simp only [xorBytes] at this
      simp [xorBytes, this, BitVec.xor_eq_zero_iff]

/-! ### Chunks -/

@[simp] theorem chunks_length (n k : Nat) (bs : List Byte) : (chunks n k bs).length = k := by
  induction k generalizing bs with
  | zero => rfl
  | succ k ih => simp [chunks, ih]

/-- Enough chunks hold the whole string. -/
theorem chunks_flatten (n k : Nat) (bs : List Byte) (h : bs.length ≤ n * k) :
    (chunks n k bs).flatten = bs := by
  induction k generalizing bs with
  | zero => simp_all [chunks]
  | succ k ih =>
    rw [chunks, List.flatten_cons, ih, List.take_append_drop]
    simp only [List.length_drop, Nat.mul_succ] at h ⊢
    omega

theorem chunks_add (n j k : Nat) (bs : List Byte) :
    chunks n (j + k) bs = chunks n j bs ++ chunks n k (bs.drop (n * j)) := by
  induction j generalizing bs with
  | zero => simp [chunks]
  | succ j ih =>
    rw [Nat.succ_add, chunks, ih, chunks, List.cons_append, List.drop_drop, Nat.mul_succ,
      Nat.add_comm n (n * j)]

/-- The first chunks of a string depend only on its first bytes. -/
theorem chunks_append (n k : Nat) (as bs : List Byte) (h : n * k ≤ as.length) :
    chunks n k (as ++ bs) = chunks n k as := by
  induction k generalizing as with
  | zero => rfl
  | succ k ih =>
    have hn : n ≤ as.length := le_trans (Nat.le_mul_of_pos_right n (Nat.succ_pos k)) h
    have hd : n * k ≤ (as.drop n).length := by
      simp only [List.length_drop, Nat.mul_succ] at h ⊢
      omega
    rw [chunks, chunks, List.take_append_of_le_length hn, List.drop_append_of_le_length hn, ih _ hd]

@[simp] theorem toReg32_toList (bs : List Byte) (h : bs.length = 32) :
    (toReg32 bs).toList = bs := by
  apply List.ext_getElem
  · simp [h]
  · intro i h1 h2
    simp [toReg32, List.getD_eq_getElem?_getD, List.getElem?_eq_getElem h2]

end Sys2Proof.Laws
end

