-- ==== Sys2Proof/Laws/State.lean ====
section
/-! SUPPORT. One lemma per field per named update of State, true by rfl, so that no proof unfolds an
update. -/

namespace Sys2Proof.Laws

open Sys2Proof.Machine

/-! ### State.complete -/

@[simp] theorem complete_fe (s : State) (e : ErrCode) : (s.complete e).fe = s.fe := rfl
@[simp] theorem complete_scalar (s : State) (e : ErrCode) : (s.complete e).scalar = s.scalar := rfl
@[simp] theorem complete_swap (s : State) (e : ErrCode) : (s.complete e).swap = s.swap := rfl
@[simp] theorem complete_s0 (s : State) (e : ErrCode) : (s.complete e).s0 = s.s0 := rfl
@[simp] theorem complete_x (s : State) (e : ErrCode) : (s.complete e).x = s.x := rfl
@[simp] theorem complete_pr (s : State) (e : ErrCode) : (s.complete e).pr = s.pr := rfl
@[simp] theorem complete_ps (s : State) (e : ErrCode) : (s.complete e).ps = s.ps := rfl
@[simp] theorem complete_ph (s : State) (e : ErrCode) : (s.complete e).ph = s.ph := rfl
@[simp] theorem complete_sh (s : State) (e : ErrCode) : (s.complete e).sh = s.sh := rfl
@[simp] theorem complete_blen (s : State) (e : ErrCode) : (s.complete e).blen = s.blen := rfl
@[simp] theorem complete_pb (s : State) (e : ErrCode) : (s.complete e).pb = s.pb := rfl
@[simp] theorem complete_w (s : State) (e : ErrCode) : (s.complete e).w = s.w := rfl
@[simp] theorem complete_wv (s : State) (e : ErrCode) : (s.complete e).wv = s.wv := rfl
@[simp] theorem complete_prk (s : State) (e : ErrCode) : (s.complete e).prk = s.prk := rfl
@[simp] theorem complete_flags (s : State) (e : ErrCode) : (s.complete e).flags = s.flags := rfl
@[simp] theorem complete_ie (s : State) (e : ErrCode) : (s.complete e).ie = s.ie := rfl
@[simp] theorem complete_busy (s : State) (e : ErrCode) : (s.complete e).busy = false := rfl
@[simp] theorem complete_done (s : State) (e : ErrCode) : (s.complete e).done = true := rfl
@[simp] theorem complete_hostErr (s : State) (e : ErrCode) : (s.complete e).hostErr = s.hostErr := rfl
@[simp] theorem complete_errCode (s : State) (e : ErrCode) : (s.complete e).errCode = e := rfl
@[simp] theorem complete_cmd (s : State) (e : ErrCode) : (s.complete e).cmd = s.cmd := rfl
@[simp] theorem complete_result (s : State) (e : ErrCode) : (s.complete e).result = s.result := rfl
@[simp] theorem complete_args (s : State) (e : ErrCode) : (s.complete e).args = s.args := rfl
@[simp] theorem complete_dbufSize (s : State) (e : ErrCode) : (s.complete e).dbufSize = s.dbufSize := rfl
@[simp] theorem complete_dbuf (s : State) (e : ErrCode) : (s.complete e).dbuf = s.dbuf := rfl
@[simp] theorem complete_rdata (s : State) (e : ErrCode) : (s.complete e).rdata = s.rdata := rfl
@[simp] theorem complete_schedule (s : State) (e : ErrCode) : (s.complete e).schedule = s.schedule := rfl

/-! ### State.accept -/

@[simp] theorem accept_fe (s : State) (v : Word) : (s.accept v).fe = s.fe := rfl
@[simp] theorem accept_scalar (s : State) (v : Word) : (s.accept v).scalar = s.scalar := rfl
@[simp] theorem accept_swap (s : State) (v : Word) : (s.accept v).swap = s.swap := rfl
@[simp] theorem accept_s0 (s : State) (v : Word) : (s.accept v).s0 = s.s0 := rfl
@[simp] theorem accept_x (s : State) (v : Word) : (s.accept v).x = s.x := rfl
@[simp] theorem accept_pr (s : State) (v : Word) : (s.accept v).pr = s.pr := rfl
@[simp] theorem accept_ps (s : State) (v : Word) : (s.accept v).ps = s.ps := rfl
@[simp] theorem accept_ph (s : State) (v : Word) : (s.accept v).ph = s.ph := rfl
@[simp] theorem accept_sh (s : State) (v : Word) : (s.accept v).sh = s.sh := rfl
@[simp] theorem accept_blen (s : State) (v : Word) : (s.accept v).blen = s.blen := rfl
@[simp] theorem accept_pb (s : State) (v : Word) : (s.accept v).pb = s.pb := rfl
@[simp] theorem accept_w (s : State) (v : Word) : (s.accept v).w = s.w := rfl
@[simp] theorem accept_wv (s : State) (v : Word) : (s.accept v).wv = s.wv := rfl
@[simp] theorem accept_prk (s : State) (v : Word) : (s.accept v).prk = s.prk := rfl
@[simp] theorem accept_flags (s : State) (v : Word) : (s.accept v).flags = s.flags := rfl
@[simp] theorem accept_ie (s : State) (v : Word) : (s.accept v).ie = s.ie := rfl
@[simp] theorem accept_busy (s : State) (v : Word) : (s.accept v).busy = true := rfl
@[simp] theorem accept_done (s : State) (v : Word) : (s.accept v).done = false := rfl
@[simp] theorem accept_hostErr (s : State) (v : Word) : (s.accept v).hostErr = s.hostErr := rfl
@[simp] theorem accept_errCode (s : State) (v : Word) : (s.accept v).errCode = .ok := rfl
@[simp] theorem accept_cmd (s : State) (v : Word) : (s.accept v).cmd = v := rfl
@[simp] theorem accept_result (s : State) (v : Word) : (s.accept v).result = s.result := rfl
@[simp] theorem accept_args (s : State) (v : Word) : (s.accept v).args = s.args := rfl
@[simp] theorem accept_dbufSize (s : State) (v : Word) : (s.accept v).dbufSize = s.dbufSize := rfl
@[simp] theorem accept_dbuf (s : State) (v : Word) : (s.accept v).dbuf = s.dbuf := rfl
@[simp] theorem accept_rdata (s : State) (v : Word) : (s.accept v).rdata = s.rdata := rfl
@[simp] theorem accept_schedule (s : State) (v : Word) : (s.accept v).schedule = s.schedule := rfl

/-! ### State.memWrite -/

@[simp] theorem memWrite_fe (s : State) (a : Nat) (bs : List Byte) : (s.memWrite a bs).fe = s.fe := rfl
@[simp] theorem memWrite_scalar (s : State) (a : Nat) (bs : List Byte) : (s.memWrite a bs).scalar = s.scalar := rfl
@[simp] theorem memWrite_swap (s : State) (a : Nat) (bs : List Byte) : (s.memWrite a bs).swap = s.swap := rfl
@[simp] theorem memWrite_s0 (s : State) (a : Nat) (bs : List Byte) : (s.memWrite a bs).s0 = s.s0 := rfl
@[simp] theorem memWrite_x (s : State) (a : Nat) (bs : List Byte) : (s.memWrite a bs).x = s.x := rfl
@[simp] theorem memWrite_pr (s : State) (a : Nat) (bs : List Byte) : (s.memWrite a bs).pr = s.pr := rfl
@[simp] theorem memWrite_ps (s : State) (a : Nat) (bs : List Byte) : (s.memWrite a bs).ps = s.ps := rfl
@[simp] theorem memWrite_ph (s : State) (a : Nat) (bs : List Byte) : (s.memWrite a bs).ph = s.ph := rfl
@[simp] theorem memWrite_sh (s : State) (a : Nat) (bs : List Byte) : (s.memWrite a bs).sh = s.sh := rfl
@[simp] theorem memWrite_blen (s : State) (a : Nat) (bs : List Byte) : (s.memWrite a bs).blen = s.blen := rfl
@[simp] theorem memWrite_pb (s : State) (a : Nat) (bs : List Byte) : (s.memWrite a bs).pb = s.pb := rfl
@[simp] theorem memWrite_w (s : State) (a : Nat) (bs : List Byte) : (s.memWrite a bs).w = s.w := rfl
@[simp] theorem memWrite_wv (s : State) (a : Nat) (bs : List Byte) : (s.memWrite a bs).wv = s.wv := rfl
@[simp] theorem memWrite_prk (s : State) (a : Nat) (bs : List Byte) : (s.memWrite a bs).prk = s.prk := rfl
@[simp] theorem memWrite_flags (s : State) (a : Nat) (bs : List Byte) : (s.memWrite a bs).flags = s.flags := rfl
@[simp] theorem memWrite_ie (s : State) (a : Nat) (bs : List Byte) : (s.memWrite a bs).ie = s.ie := rfl
@[simp] theorem memWrite_busy (s : State) (a : Nat) (bs : List Byte) : (s.memWrite a bs).busy = s.busy := rfl
@[simp] theorem memWrite_done (s : State) (a : Nat) (bs : List Byte) : (s.memWrite a bs).done = s.done := rfl
@[simp] theorem memWrite_hostErr (s : State) (a : Nat) (bs : List Byte) : (s.memWrite a bs).hostErr = s.hostErr := rfl
@[simp] theorem memWrite_errCode (s : State) (a : Nat) (bs : List Byte) : (s.memWrite a bs).errCode = s.errCode := rfl
@[simp] theorem memWrite_cmd (s : State) (a : Nat) (bs : List Byte) : (s.memWrite a bs).cmd = s.cmd := rfl
@[simp] theorem memWrite_result (s : State) (a : Nat) (bs : List Byte) : (s.memWrite a bs).result = s.result := rfl
@[simp] theorem memWrite_args (s : State) (a : Nat) (bs : List Byte) : (s.memWrite a bs).args = s.args := rfl
@[simp] theorem memWrite_dbufSize (s : State) (a : Nat) (bs : List Byte) : (s.memWrite a bs).dbufSize = s.dbufSize := rfl
@[simp] theorem memWrite_dbuf (s : State) (a : Nat) (bs : List Byte) : (s.memWrite a bs).dbuf = s.dbuf.writeBytes a bs := rfl
@[simp] theorem memWrite_rdata (s : State) (a : Nat) (bs : List Byte) : (s.memWrite a bs).rdata = s.rdata := rfl
@[simp] theorem memWrite_schedule (s : State) (a : Nat) (bs : List Byte) : (s.memWrite a bs).schedule = s.schedule := rfl

/-! ### State.setFe -/

@[simp] theorem setFe_fe (s : State) (i : Idx) (v : Fe) : (s.setFe i v).fe = s.fe.set i v := rfl
@[simp] theorem setFe_scalar (s : State) (i : Idx) (v : Fe) : (s.setFe i v).scalar = s.scalar := rfl
@[simp] theorem setFe_swap (s : State) (i : Idx) (v : Fe) : (s.setFe i v).swap = s.swap := rfl
@[simp] theorem setFe_s0 (s : State) (i : Idx) (v : Fe) : (s.setFe i v).s0 = s.s0 := rfl
@[simp] theorem setFe_x (s : State) (i : Idx) (v : Fe) : (s.setFe i v).x = s.x := rfl
@[simp] theorem setFe_pr (s : State) (i : Idx) (v : Fe) : (s.setFe i v).pr = s.pr := rfl
@[simp] theorem setFe_ps (s : State) (i : Idx) (v : Fe) : (s.setFe i v).ps = s.ps := rfl
@[simp] theorem setFe_ph (s : State) (i : Idx) (v : Fe) : (s.setFe i v).ph = s.ph := rfl
@[simp] theorem setFe_sh (s : State) (i : Idx) (v : Fe) : (s.setFe i v).sh = s.sh := rfl
@[simp] theorem setFe_blen (s : State) (i : Idx) (v : Fe) : (s.setFe i v).blen = s.blen := rfl
@[simp] theorem setFe_pb (s : State) (i : Idx) (v : Fe) : (s.setFe i v).pb = s.pb := rfl
@[simp] theorem setFe_w (s : State) (i : Idx) (v : Fe) : (s.setFe i v).w = s.w := rfl
@[simp] theorem setFe_wv (s : State) (i : Idx) (v : Fe) : (s.setFe i v).wv = s.wv := rfl
@[simp] theorem setFe_prk (s : State) (i : Idx) (v : Fe) : (s.setFe i v).prk = s.prk := rfl
@[simp] theorem setFe_flags (s : State) (i : Idx) (v : Fe) : (s.setFe i v).flags = s.flags := rfl
@[simp] theorem setFe_ie (s : State) (i : Idx) (v : Fe) : (s.setFe i v).ie = s.ie := rfl
@[simp] theorem setFe_busy (s : State) (i : Idx) (v : Fe) : (s.setFe i v).busy = s.busy := rfl
@[simp] theorem setFe_done (s : State) (i : Idx) (v : Fe) : (s.setFe i v).done = s.done := rfl
@[simp] theorem setFe_hostErr (s : State) (i : Idx) (v : Fe) : (s.setFe i v).hostErr = s.hostErr := rfl
@[simp] theorem setFe_errCode (s : State) (i : Idx) (v : Fe) : (s.setFe i v).errCode = s.errCode := rfl
@[simp] theorem setFe_cmd (s : State) (i : Idx) (v : Fe) : (s.setFe i v).cmd = s.cmd := rfl
@[simp] theorem setFe_result (s : State) (i : Idx) (v : Fe) : (s.setFe i v).result = s.result := rfl
@[simp] theorem setFe_args (s : State) (i : Idx) (v : Fe) : (s.setFe i v).args = s.args := rfl
@[simp] theorem setFe_dbufSize (s : State) (i : Idx) (v : Fe) : (s.setFe i v).dbufSize = s.dbufSize := rfl
@[simp] theorem setFe_dbuf (s : State) (i : Idx) (v : Fe) : (s.setFe i v).dbuf = s.dbuf := rfl
@[simp] theorem setFe_rdata (s : State) (i : Idx) (v : Fe) : (s.setFe i v).rdata = s.rdata := rfl
@[simp] theorem setFe_schedule (s : State) (i : Idx) (v : Fe) : (s.setFe i v).schedule = s.schedule := rfl

/-! ### State.setHostErr -/

@[simp] theorem setHostErr_fe (s : State) : s.setHostErr.fe = s.fe := rfl
@[simp] theorem setHostErr_scalar (s : State) : s.setHostErr.scalar = s.scalar := rfl
@[simp] theorem setHostErr_swap (s : State) : s.setHostErr.swap = s.swap := rfl
@[simp] theorem setHostErr_s0 (s : State) : s.setHostErr.s0 = s.s0 := rfl
@[simp] theorem setHostErr_x (s : State) : s.setHostErr.x = s.x := rfl
@[simp] theorem setHostErr_pr (s : State) : s.setHostErr.pr = s.pr := rfl
@[simp] theorem setHostErr_ps (s : State) : s.setHostErr.ps = s.ps := rfl
@[simp] theorem setHostErr_ph (s : State) : s.setHostErr.ph = s.ph := rfl
@[simp] theorem setHostErr_sh (s : State) : s.setHostErr.sh = s.sh := rfl
@[simp] theorem setHostErr_blen (s : State) : s.setHostErr.blen = s.blen := rfl
@[simp] theorem setHostErr_pb (s : State) : s.setHostErr.pb = s.pb := rfl
@[simp] theorem setHostErr_w (s : State) : s.setHostErr.w = s.w := rfl
@[simp] theorem setHostErr_wv (s : State) : s.setHostErr.wv = s.wv := rfl
@[simp] theorem setHostErr_prk (s : State) : s.setHostErr.prk = s.prk := rfl
@[simp] theorem setHostErr_flags (s : State) : s.setHostErr.flags = s.flags := rfl
@[simp] theorem setHostErr_ie (s : State) : s.setHostErr.ie = s.ie := rfl
@[simp] theorem setHostErr_busy (s : State) : s.setHostErr.busy = s.busy := rfl
@[simp] theorem setHostErr_done (s : State) : s.setHostErr.done = s.done := rfl
@[simp] theorem setHostErr_hostErr (s : State) : s.setHostErr.hostErr = true := rfl
@[simp] theorem setHostErr_errCode (s : State) : s.setHostErr.errCode = s.errCode := rfl
@[simp] theorem setHostErr_cmd (s : State) : s.setHostErr.cmd = s.cmd := rfl
@[simp] theorem setHostErr_result (s : State) : s.setHostErr.result = s.result := rfl
@[simp] theorem setHostErr_args (s : State) : s.setHostErr.args = s.args := rfl
@[simp] theorem setHostErr_dbufSize (s : State) : s.setHostErr.dbufSize = s.dbufSize := rfl
@[simp] theorem setHostErr_dbuf (s : State) : s.setHostErr.dbuf = s.dbuf := rfl
@[simp] theorem setHostErr_rdata (s : State) : s.setHostErr.rdata = s.rdata := rfl
@[simp] theorem setHostErr_schedule (s : State) : s.setHostErr.schedule = s.schedule := rfl

/-! ### State.clearDone -/

@[simp] theorem clearDone_fe (s : State) : s.clearDone.fe = s.fe := rfl
@[simp] theorem clearDone_scalar (s : State) : s.clearDone.scalar = s.scalar := rfl
@[simp] theorem clearDone_swap (s : State) : s.clearDone.swap = s.swap := rfl
@[simp] theorem clearDone_s0 (s : State) : s.clearDone.s0 = s.s0 := rfl
@[simp] theorem clearDone_x (s : State) : s.clearDone.x = s.x := rfl
@[simp] theorem clearDone_pr (s : State) : s.clearDone.pr = s.pr := rfl
@[simp] theorem clearDone_ps (s : State) : s.clearDone.ps = s.ps := rfl
@[simp] theorem clearDone_ph (s : State) : s.clearDone.ph = s.ph := rfl
@[simp] theorem clearDone_sh (s : State) : s.clearDone.sh = s.sh := rfl
@[simp] theorem clearDone_blen (s : State) : s.clearDone.blen = s.blen := rfl
@[simp] theorem clearDone_pb (s : State) : s.clearDone.pb = s.pb := rfl
@[simp] theorem clearDone_w (s : State) : s.clearDone.w = s.w := rfl
@[simp] theorem clearDone_wv (s : State) : s.clearDone.wv = s.wv := rfl
@[simp] theorem clearDone_prk (s : State) : s.clearDone.prk = s.prk := rfl
@[simp] theorem clearDone_flags (s : State) : s.clearDone.flags = s.flags := rfl
@[simp] theorem clearDone_ie (s : State) : s.clearDone.ie = s.ie := rfl
@[simp] theorem clearDone_busy (s : State) : s.clearDone.busy = s.busy := rfl
@[simp] theorem clearDone_done (s : State) : s.clearDone.done = false := rfl
@[simp] theorem clearDone_hostErr (s : State) : s.clearDone.hostErr = s.hostErr := rfl
@[simp] theorem clearDone_errCode (s : State) : s.clearDone.errCode = s.errCode := rfl
@[simp] theorem clearDone_cmd (s : State) : s.clearDone.cmd = s.cmd := rfl
@[simp] theorem clearDone_result (s : State) : s.clearDone.result = s.result := rfl
@[simp] theorem clearDone_args (s : State) : s.clearDone.args = s.args := rfl
@[simp] theorem clearDone_dbufSize (s : State) : s.clearDone.dbufSize = s.dbufSize := rfl
@[simp] theorem clearDone_dbuf (s : State) : s.clearDone.dbuf = s.dbuf := rfl
@[simp] theorem clearDone_rdata (s : State) : s.clearDone.rdata = s.rdata := rfl
@[simp] theorem clearDone_schedule (s : State) : s.clearDone.schedule = s.schedule := rfl

/-! ### State.zeroRoundStage -/

@[simp] theorem zeroRoundStage_fe (s : State) : s.zeroRoundStage.fe = s.fe := rfl
@[simp] theorem zeroRoundStage_scalar (s : State) : s.zeroRoundStage.scalar = s.scalar := rfl
@[simp] theorem zeroRoundStage_swap (s : State) : s.zeroRoundStage.swap = s.swap := rfl
@[simp] theorem zeroRoundStage_s0 (s : State) : s.zeroRoundStage.s0 = s.s0 := rfl
@[simp] theorem zeroRoundStage_x (s : State) : s.zeroRoundStage.x = s.x := rfl
@[simp] theorem zeroRoundStage_pr (s : State) : s.zeroRoundStage.pr = s.pr := rfl
@[simp] theorem zeroRoundStage_ps (s : State) : s.zeroRoundStage.ps = s.ps := rfl
@[simp] theorem zeroRoundStage_ph (s : State) : s.zeroRoundStage.ph = s.ph := rfl
@[simp] theorem zeroRoundStage_sh (s : State) : s.zeroRoundStage.sh = s.sh := rfl
@[simp] theorem zeroRoundStage_blen (s : State) : s.zeroRoundStage.blen = s.blen := rfl
@[simp] theorem zeroRoundStage_pb (s : State) : s.zeroRoundStage.pb = s.pb := rfl
@[simp] theorem zeroRoundStage_w (s : State) : s.zeroRoundStage.w = Vector.replicate 64 0#32 := rfl
@[simp] theorem zeroRoundStage_wv (s : State) : s.zeroRoundStage.wv = Vector.replicate 8 0#32 := rfl
@[simp] theorem zeroRoundStage_prk (s : State) : s.zeroRoundStage.prk = s.prk := rfl
@[simp] theorem zeroRoundStage_flags (s : State) : s.zeroRoundStage.flags = s.flags := rfl
@[simp] theorem zeroRoundStage_ie (s : State) : s.zeroRoundStage.ie = s.ie := rfl
@[simp] theorem zeroRoundStage_busy (s : State) : s.zeroRoundStage.busy = s.busy := rfl
@[simp] theorem zeroRoundStage_done (s : State) : s.zeroRoundStage.done = s.done := rfl
@[simp] theorem zeroRoundStage_hostErr (s : State) : s.zeroRoundStage.hostErr = s.hostErr := rfl
@[simp] theorem zeroRoundStage_errCode (s : State) : s.zeroRoundStage.errCode = s.errCode := rfl
@[simp] theorem zeroRoundStage_cmd (s : State) : s.zeroRoundStage.cmd = s.cmd := rfl
@[simp] theorem zeroRoundStage_result (s : State) : s.zeroRoundStage.result = s.result := rfl
@[simp] theorem zeroRoundStage_args (s : State) : s.zeroRoundStage.args = s.args := rfl
@[simp] theorem zeroRoundStage_dbufSize (s : State) : s.zeroRoundStage.dbufSize = s.dbufSize := rfl
@[simp] theorem zeroRoundStage_dbuf (s : State) : s.zeroRoundStage.dbuf = s.dbuf := rfl
@[simp] theorem zeroRoundStage_rdata (s : State) : s.zeroRoundStage.rdata = s.rdata := rfl
@[simp] theorem zeroRoundStage_schedule (s : State) : s.zeroRoundStage.schedule = s.schedule := rfl

/-! ### State.setLadder -/

@[simp] theorem setLadder_fe (s : State) (l : Ladder) : (s.setLadder l).fe = ((((s.fe.set 0 l.x1).set 1 l.x2).set 2 l.z2).set 3 l.x3).set 4 l.z3 := rfl
@[simp] theorem setLadder_scalar (s : State) (l : Ladder) : (s.setLadder l).scalar = s.scalar := rfl
@[simp] theorem setLadder_swap (s : State) (l : Ladder) : (s.setLadder l).swap = l.swap := rfl
@[simp] theorem setLadder_s0 (s : State) (l : Ladder) : (s.setLadder l).s0 = s.s0 := rfl
@[simp] theorem setLadder_x (s : State) (l : Ladder) : (s.setLadder l).x = s.x := rfl
@[simp] theorem setLadder_pr (s : State) (l : Ladder) : (s.setLadder l).pr = s.pr := rfl
@[simp] theorem setLadder_ps (s : State) (l : Ladder) : (s.setLadder l).ps = s.ps := rfl
@[simp] theorem setLadder_ph (s : State) (l : Ladder) : (s.setLadder l).ph = s.ph := rfl
@[simp] theorem setLadder_sh (s : State) (l : Ladder) : (s.setLadder l).sh = s.sh := rfl
@[simp] theorem setLadder_blen (s : State) (l : Ladder) : (s.setLadder l).blen = s.blen := rfl
@[simp] theorem setLadder_pb (s : State) (l : Ladder) : (s.setLadder l).pb = s.pb := rfl
@[simp] theorem setLadder_w (s : State) (l : Ladder) : (s.setLadder l).w = s.w := rfl
@[simp] theorem setLadder_wv (s : State) (l : Ladder) : (s.setLadder l).wv = s.wv := rfl
@[simp] theorem setLadder_prk (s : State) (l : Ladder) : (s.setLadder l).prk = s.prk := rfl
@[simp] theorem setLadder_flags (s : State) (l : Ladder) : (s.setLadder l).flags = s.flags := rfl
@[simp] theorem setLadder_ie (s : State) (l : Ladder) : (s.setLadder l).ie = s.ie := rfl
@[simp] theorem setLadder_busy (s : State) (l : Ladder) : (s.setLadder l).busy = s.busy := rfl
@[simp] theorem setLadder_done (s : State) (l : Ladder) : (s.setLadder l).done = s.done := rfl
@[simp] theorem setLadder_hostErr (s : State) (l : Ladder) : (s.setLadder l).hostErr = s.hostErr := rfl
@[simp] theorem setLadder_errCode (s : State) (l : Ladder) : (s.setLadder l).errCode = s.errCode := rfl
@[simp] theorem setLadder_cmd (s : State) (l : Ladder) : (s.setLadder l).cmd = s.cmd := rfl
@[simp] theorem setLadder_result (s : State) (l : Ladder) : (s.setLadder l).result = s.result := rfl
@[simp] theorem setLadder_args (s : State) (l : Ladder) : (s.setLadder l).args = s.args := rfl
@[simp] theorem setLadder_dbufSize (s : State) (l : Ladder) : (s.setLadder l).dbufSize = s.dbufSize := rfl
@[simp] theorem setLadder_dbuf (s : State) (l : Ladder) : (s.setLadder l).dbuf = s.dbuf := rfl
@[simp] theorem setLadder_rdata (s : State) (l : Ladder) : (s.setLadder l).rdata = s.rdata := rfl
@[simp] theorem setLadder_schedule (s : State) (l : Ladder) : (s.setLadder l).schedule = s.schedule := rfl

/-! ### State.zeroized -/

@[simp] theorem zeroized_fe (s : State) : s.zeroized.fe = Vector.replicate 16 feZero := rfl
@[simp] theorem zeroized_scalar (s : State) : s.zeroized.scalar = 0#256 := rfl
@[simp] theorem zeroized_swap (s : State) : s.zeroized.swap = false := rfl
@[simp] theorem zeroized_s0 (s : State) : s.zeroized.s0 = Vector.replicate 16 0#32 := rfl
@[simp] theorem zeroized_x (s : State) : s.zeroized.x = Vector.replicate 16 0#32 := rfl
@[simp] theorem zeroized_pr (s : State) : s.zeroized.pr = 0#128 := rfl
@[simp] theorem zeroized_ps (s : State) : s.zeroized.ps = 0#128 := rfl
@[simp] theorem zeroized_ph (s : State) : s.zeroized.ph = phZero := rfl
@[simp] theorem zeroized_sh (s : State) : s.zeroized.sh = Vector.replicate 8 0#32 := rfl
@[simp] theorem zeroized_blen (s : State) : s.zeroized.blen = 0#64 := rfl
@[simp] theorem zeroized_pb (s : State) : s.zeroized.pb = [] := rfl
@[simp] theorem zeroized_w (s : State) : s.zeroized.w = Vector.replicate 64 0#32 := rfl
@[simp] theorem zeroized_wv (s : State) : s.zeroized.wv = Vector.replicate 8 0#32 := rfl
@[simp] theorem zeroized_prk (s : State) : s.zeroized.prk = Vector.replicate 32 0#8 := rfl
@[simp] theorem zeroized_flags (s : State) : s.zeroized.flags = .clear := rfl
@[simp] theorem zeroized_ie (s : State) : s.zeroized.ie = s.ie := rfl
@[simp] theorem zeroized_busy (s : State) : s.zeroized.busy = s.busy := rfl
@[simp] theorem zeroized_done (s : State) : s.zeroized.done = s.done := rfl
@[simp] theorem zeroized_hostErr (s : State) : s.zeroized.hostErr = s.hostErr := rfl
@[simp] theorem zeroized_errCode (s : State) : s.zeroized.errCode = s.errCode := rfl
@[simp] theorem zeroized_cmd (s : State) : s.zeroized.cmd = s.cmd := rfl
@[simp] theorem zeroized_result (s : State) : s.zeroized.result = s.result := rfl
@[simp] theorem zeroized_args (s : State) : s.zeroized.args = s.args := rfl
@[simp] theorem zeroized_dbufSize (s : State) : s.zeroized.dbufSize = s.dbufSize := rfl
@[simp] theorem zeroized_dbuf (s : State) : s.zeroized.dbuf = s.dbuf := rfl
@[simp] theorem zeroized_rdata (s : State) : s.zeroized.rdata = s.rdata := rfl
@[simp] theorem zeroized_schedule (s : State) : s.zeroized.schedule = s.schedule := rfl

/-! ### State.toReset -/

@[simp] theorem toReset_fe (s : State) : s.toReset.fe = Vector.replicate 16 feZero := rfl
@[simp] theorem toReset_scalar (s : State) : s.toReset.scalar = 0#256 := rfl
@[simp] theorem toReset_swap (s : State) : s.toReset.swap = false := rfl
@[simp] theorem toReset_s0 (s : State) : s.toReset.s0 = Vector.replicate 16 0#32 := rfl
@[simp] theorem toReset_x (s : State) : s.toReset.x = Vector.replicate 16 0#32 := rfl
@[simp] theorem toReset_pr (s : State) : s.toReset.pr = 0#128 := rfl
@[simp] theorem toReset_ps (s : State) : s.toReset.ps = 0#128 := rfl
@[simp] theorem toReset_ph (s : State) : s.toReset.ph = phZero := rfl
@[simp] theorem toReset_sh (s : State) : s.toReset.sh = Vector.replicate 8 0#32 := rfl
@[simp] theorem toReset_blen (s : State) : s.toReset.blen = 0#64 := rfl
@[simp] theorem toReset_pb (s : State) : s.toReset.pb = [] := rfl
@[simp] theorem toReset_w (s : State) : s.toReset.w = Vector.replicate 64 0#32 := rfl
@[simp] theorem toReset_wv (s : State) : s.toReset.wv = Vector.replicate 8 0#32 := rfl
@[simp] theorem toReset_prk (s : State) : s.toReset.prk = Vector.replicate 32 0#8 := rfl
@[simp] theorem toReset_flags (s : State) : s.toReset.flags = .clear := rfl
@[simp] theorem toReset_ie (s : State) : s.toReset.ie = false := rfl
@[simp] theorem toReset_busy (s : State) : s.toReset.busy = false := rfl
@[simp] theorem toReset_done (s : State) : s.toReset.done = false := rfl
@[simp] theorem toReset_hostErr (s : State) : s.toReset.hostErr = false := rfl
@[simp] theorem toReset_errCode (s : State) : s.toReset.errCode = .ok := rfl
@[simp] theorem toReset_cmd (s : State) : s.toReset.cmd = 0#32 := rfl
@[simp] theorem toReset_result (s : State) : s.toReset.result = false := rfl
@[simp] theorem toReset_args (s : State) : s.toReset.args = Vector.replicate 8 0#32 := rfl
@[simp] theorem toReset_dbufSize (s : State) : s.toReset.dbufSize = s.dbufSize := rfl
@[simp] theorem toReset_dbuf (s : State) : s.toReset.dbuf = [] := rfl
@[simp] theorem toReset_rdata (s : State) : s.toReset.rdata = 0#32 := rfl
@[simp] theorem toReset_schedule (s : State) : s.toReset.schedule = s.schedule := rfl

end Sys2Proof.Laws
end

