-- ==== Sys2Proof/Laws/Commands.lean ====
section
/-! SUPPORT. The checks and the completion every command shares: when a check passes, and the two things
an accepted command can do. -/

namespace Sys2Proof.Laws

open Sys2Proof.Machine

/-! ### Regions (20_memory.md R72, R73) -/

theorem inBounds_iff (r : Region) (size : Nat) :
    r.inBounds size = true ↔ r.len = 0 ∨ r.addr + r.len ≤ size := by simp [Region.inBounds]

theorem overlaps_iff (r q : Region) :
    r.overlaps q = true ↔
      0 < r.len ∧ 0 < q.len ∧ r.addr < q.addr + q.len ∧ q.addr < r.addr + r.len := by
  simp [Region.overlaps]

/-- Regions overlap exactly when they share a byte (R73). -/
theorem overlaps_iff_shared_byte (r q : Region) :
    r.overlaps q = true ↔
      ∃ k, (r.addr ≤ k ∧ k < r.addr + r.len) ∧ (q.addr ≤ k ∧ k < q.addr + q.len) := by
  rw [overlaps_iff]
  constructor
  · rintro ⟨h1, h2, h3, h4⟩
    exact ⟨max r.addr q.addr, by omega, by omega⟩
  · rintro ⟨k, h1, h2⟩
    omega

@[simp] theorem fixed_addr (s : State) (a : Fin 8) (n : Nat) : (s.fixed a n).addr = s.arg a := rfl
@[simp] theorem fixed_len (s : State) (a : Fin 8) (n : Nat) : (s.fixed a n).len = n := rfl
@[simp] theorem sized_addr (s : State) (a n : Fin 8) : (s.sized a n).addr = s.arg a := rfl
@[simp] theorem sized_len (s : State) (a n : Fin 8) : (s.sized a n).len = s.arg n := rfl

/-! ### The order of the checks (60_exceptions.md R305) -/

theorem failure_eq_none_iff (c : Checks) (size : Nat) :
    c.failure size = none ↔
      c.fieldOk = true ∧ c.lengthOk = true ∧ c.inBounds size = true ∧ c.overlapBroken = false ∧
        c.sequenceOk = true := by
  simp only [Checks.failure]
  cases c.fieldOk <;> cases c.lengthOk <;> cases c.inBounds size <;> cases c.overlapBroken <;>
    cases c.sequenceOk <;> simp

/-- No check fails with OK or E_AUTH or E_OPCODE. -/
theorem failure_code {c : Checks} {size : Nat} {e : ErrCode} (h : c.failure size = some e) :
    e = .field ∨ e = .length ∨ e = .bounds ∨ e = .overlap ∨ e = .sequence := by
  simp only [Checks.failure] at h
  split_ifs at h <;> simp_all

/-- The bounds check says every region, input or output, is in bounds. -/
theorem inBounds_all_iff (c : Checks) (size : Nat) :
    c.inBounds size = true ↔ ∀ r ∈ c.ins ++ c.outs, r.len = 0 ∨ r.addr + r.len ≤ size := by
  simp only [Checks.inBounds, List.all_eq_true, inBounds_iff]

/-! ### What an accepted command can do (R306, R307) -/

theorem runJudged_of_failure {i : Instr} {s : State} {b : State × ErrCode} {e : ErrCode}
    (h : checkFailure i s = some e) : runJudged i s b = .next (s.complete e) := by
  simp [runJudged, h]

theorem runJudged_of_pass {i : Instr} {s : State} {b : State × ErrCode} (h : checkFailure i s = none) :
    runJudged i s b = .next (b.1.complete b.2) := by
  simp [runJudged, h]

theorem runCommand_of_failure {i : Instr} {s b : State} {e : ErrCode}
    (h : checkFailure i s = some e) : runCommand i s b = .next (s.complete e) :=
  runJudged_of_failure h

theorem runCommand_of_pass {i : Instr} {s b : State} (h : checkFailure i s = none) :
    runCommand i s b = .next (b.complete .ok) :=
  runJudged_of_pass h

/-- Say once what an accepted command can do: complete with a failed check's code and nothing else, or
complete its body. -/
theorem runJudged_cases {i : Instr} {s t : State} {b : State × ErrCode}
    (h : runJudged i s b = .next t) :
    (∃ e, checkFailure i s = some e ∧ t = s.complete e) ∨
      (checkFailure i s = none ∧ t = b.1.complete b.2) := by
  cases hc : checkFailure i s with
  | some e => exact .inl ⟨e, rfl, by simpa [runJudged, hc] using h.symm⟩
  | none => exact .inr ⟨rfl, by simpa [runJudged, hc] using h.symm⟩

theorem runCommand_cases {i : Instr} {s b t : State} (h : runCommand i s b = .next t) :
    (∃ e, checkFailure i s = some e ∧ t = s.complete e) ∨
      (checkFailure i s = none ∧ t = b.complete .ok) :=
  runJudged_cases h

end Sys2Proof.Laws
end

