-- ==== Sys2Proof/Laws/Decode.lean ====
section
/-! SUPPORT. The fields of a packed command word (30_encoding.md R101): each reads back as it was packed,
and a word is the packing of its fields. -/

namespace Sys2Proof.Laws

theorem packWord_toNat (op : Nat) (hop : op < 256) (a b c d : Idx) (t : Fin 256) :
    (packWord op a b c d t).toNat =
      t.val * 2 ^ 24 + d.val * 2 ^ 20 + c.val * 2 ^ 16 + b.val * 2 ^ 12 + a.val * 2 ^ 8 + op := by
  have := a.isLt; have := b.isLt; have := c.isLt; have := d.isLt; have := t.isLt
  simp only [packWord, BitVec.toNat_ofNat]
  omega

@[simp] theorem op_packWord (op : Nat) (hop : op < 256) (a b c d : Idx) (t : Fin 256) :
    CmdField.op (packWord op a b c d t) = op := by
  simp only [CmdField.op, CmdField.bits, packWord_toNat op hop]
  omega

@[simp] theorem fa_packWord (op : Nat) (hop : op < 256) (a b c d : Idx) (t : Fin 256) :
    CmdField.fa (packWord op a b c d t) = a := by
  apply Fin.ext
  simp only [CmdField.fa, CmdField.bits, packWord_toNat op hop]
  omega

@[simp] theorem fb_packWord (op : Nat) (hop : op < 256) (a b c d : Idx) (t : Fin 256) :
    CmdField.fb (packWord op a b c d t) = b := by
  apply Fin.ext
  simp only [CmdField.fb, CmdField.bits, packWord_toNat op hop]
  omega

@[simp] theorem fc_packWord (op : Nat) (hop : op < 256) (a b c d : Idx) (t : Fin 256) :
    CmdField.fc (packWord op a b c d t) = c := by
  apply Fin.ext
  simp only [CmdField.fc, CmdField.bits, packWord_toNat op hop]
  omega

@[simp] theorem fd_packWord (op : Nat) (hop : op < 256) (a b c d : Idx) (t : Fin 256) :
    CmdField.fd (packWord op a b c d t) = d := by
  apply Fin.ext
  simp only [CmdField.fd, CmdField.bits, packWord_toNat op hop]
  omega

@[simp] theorem imm8_packWord (op : Nat) (hop : op < 256) (a b c d : Idx) (t : Fin 256) :
    CmdField.imm8 (packWord op a b c d t) = t := by
  apply Fin.ext
  simp only [CmdField.imm8, CmdField.bits, packWord_toNat op hop]
  omega

/-- OP is one of 256 values. -/
theorem op_lt (w : Word) : CmdField.op w < 256 := Nat.mod_lt _ (by decide)

/-- A word is the packing of its own fields. -/
theorem packWord_fields (w : Word) :
    packWord (CmdField.op w) (CmdField.fa w) (CmdField.fb w) (CmdField.fc w) (CmdField.fd w)
      (CmdField.imm8 w) = w := by
  apply BitVec.eq_of_toNat_eq
  rw [packWord_toNat _ (op_lt w)]
  have := w.isLt
  simp only [CmdField.op, CmdField.fa, CmdField.fb, CmdField.fc, CmdField.fd, CmdField.imm8,
    CmdField.bits]
  omega

/-- Decoding a packed word looks only at the fields packed. -/
theorem decode_packWord (op : Nat) (hop : op < 256) (a b c d : Idx) (t : Fin 256) :
    decode (packWord op a b c d t) = decodeFields op a b c d t := by
  simp only [decode, op_packWord _ hop, fa_packWord _ hop, fb_packWord _ hop, fc_packWord _ hop,
    fd_packWord _ hop, imm8_packWord _ hop]

end Sys2Proof.Laws
end

