-- ==== Sys2Proof/Laws/Functions.lean ====
section
/-! SUPPORT. The functions the meanings compute with: the lengths of what they give, their values as
numbers, and the algebra of the loops. -/

namespace Sys2Proof.Laws

open Sys2Proof.Machine

/-! ### Field arithmetic (41_field.md) -/

@[simp] theorem feOf_val (x : Nat) : (feOf x).val = x % p := rfl
@[simp] theorem feAdd_val (a b : Fe) : (feAdd a b).val = (a.val + b.val) % p := rfl
@[simp] theorem feMul_val (a b : Fe) : (feMul a b).val = (a.val * b.val) % p := rfl
@[simp] theorem feSub_val (a b : Fe) : (feSub a b).val = (a.val + (p - b.val)) % p := rfl
@[simp] theorem feMulA24_val (a : Fe) : (feMulA24 a).val = (121665 * a.val) % p := rfl

theorem p_eq : p = 2 ^ 255 - 19 := by decide
theorem p130_eq : p130 = 2 ^ 130 - 5 := by decide

/-- A field element is its own residue. -/
theorem feOf_val_self (a : Fe) : feOf a.val = a := Fin.ext (Nat.mod_eq_of_lt a.isLt)

/-- Repeated squaring computes the power (R153, R156). -/
theorem fePow_val (z : Fe) (n e : Nat) (h : e < 2 ^ n) : (fePow z n e).val = z.val ^ e % p := by
  induction n generalizing z e with
  | zero =>
    have : e = 0 := by simpa using h
    simp [fePow, this]
  | succ n ih =>
    have hlt : e / 2 < 2 ^ n := by rw [pow_succ] at h; omega
    have hh := ih (feMul z z) (e / 2) hlt
    have hsq : (feMul z z).val ^ (e / 2) % p = z.val ^ (2 * (e / 2)) % p := by
      rw [feMul_val, ← Nat.pow_mod, ← pow_two, ← pow_mul]
    rw [hsq] at hh
    simp only [fePow]
    split
    · rename_i hodd
      rw [feMul_val, hh, Nat.mul_mod_mod, ← pow_succ', show 2 * (e / 2) + 1 = e by omega]
    · rename_i heven
      rw [hh, show 2 * (e / 2) = e by omega]

@[simp] theorem toBytes_length (v : Fe) : (toBytes v).length = 32 := by simp [toBytes]

@[simp] theorem cswap_false (a b : Fe) : cswap false a b = (a, b) := rfl
@[simp] theorem cswap_true (a b : Fe) : cswap true a b = (b, a) := rfl

/-! ### X25519 (42_x25519.md) -/

@[simp] theorem clamp_length (k : List Byte) : (clamp k).length = k.length := by simp [clamp]

@[simp] theorem x25519_length (k u : List Byte) : (x25519 k u).length = 32 := by simp [x25519]

@[simp] theorem basePoint_length : basePoint.length = 32 := by simp [basePoint]

/-! ### ChaCha20 (43_chacha20.md) -/

theorem zipWith_leBytes_flatten_length (as bs : List Word) :
    ((List.zipWith (fun a b => leBytes 4 (a + b).toNat) as bs).flatten).length =
      4 * min as.length bs.length := by
  induction as generalizing bs with
  | nil => simp
  | cons a as ih =>
    cases bs with
    | nil => simp
    | cons b bs =>
      simp only [List.zipWith_cons_cons, List.flatten_cons, List.length_append, leBytes_length,
        List.length_cons, ih]
      omega

@[simp] theorem serialize_length (x s : CcMatrix) : (serialize x s).length = 64 := by
  rw [serialize, zipWith_leBytes_flatten_length]
  simp

@[simp] theorem chaChaBlock_length (s : CcMatrix) : (chaChaBlock s).2.length = 64 := by simp [chaChaBlock]

theorem ceilDiv_mul_ge (a b : Nat) (hb : 0 < b) : a ≤ b * ceilDiv a b := by
  have h := Nat.div_add_mod (a + b - 1) b
  have := Nat.mod_lt (a + b - 1) hb
  simp only [ceilDiv]
  omega

/-- The stream's output is as long as its input. -/
theorem streamRun_out_length (n : Nat) (s0 x : CcMatrix) (inp : List Byte) (h : inp.length ≤ 64 * n) :
    (streamRun n s0 x inp).out.length = inp.length := by
  induction n generalizing s0 x inp with
  | zero => simp_all [streamRun]
  | succ n ih =>
    have hd : (inp.drop 64).length ≤ 64 * n := by
      simp only [List.length_drop]
      omega
    simp only [streamRun, List.length_append, xorBytes_length, List.length_take, chaChaBlock_length,
      ih _ _ _ hd, List.length_drop]
    omega

@[simp] theorem stream_out_length (s0 x : CcMatrix) (inp : List Byte) :
    (stream s0 x inp).out.length = inp.length :=
  streamRun_out_length _ _ _ _ (ceilDiv_mul_ge _ _ (by decide))

/-- The stream's output and its S0 do not depend on the working matrix it starts with (R202). -/
theorem streamRun_out_congr (n : Nat) (s0 x x' : CcMatrix) (inp : List Byte) :
    (streamRun n s0 x inp).out = (streamRun n s0 x' inp).out ∧
      (streamRun n s0 x inp).s0 = (streamRun n s0 x' inp).s0 := by
  cases n <;> exact ⟨rfl, rfl⟩

/-! ### Poly1305 (44_poly1305.md) -/

@[simp] theorem phOf_val (x : Nat) : (phOf x).val = x % p130 := rfl

@[simp] theorem polyTag_length (h : Ph) (s : BitVec 128) : (polyTag h s).length = 16 := by
  simp [polyTag]

@[simp] theorem poly1305_length (k m : List Byte) : (poly1305 k m).length = 16 := by simp [poly1305]

/-- A clamped r stays clamped (R211). -/
theorem polyR_clamped (k : List Byte) : polyR k &&& polyClampMask = polyR k := by
  simp [polyR, BitVec.and_assoc]

theorem polyUpdate_nil (r : BitVec 128) (h : Ph) : polyUpdate r h [] = h := by
  simp [polyUpdate, ceilDiv, chunks]

/-- The accumulator over a string whose first part is whole chunks (R216). -/
theorem polyUpdate_append (r : BitVec 128) (h : Ph) (as bs : List Byte) (hd : as.length % 16 = 0) :
    polyUpdate r h (as ++ bs) = polyUpdate r (polyUpdate r h as) bs := by
  obtain ⟨k, hk⟩ : ∃ k, as.length = 16 * k := ⟨as.length / 16, by omega⟩
  have h1 : ceilDiv (as ++ bs).length 16 = k + ceilDiv bs.length 16 := by
    simp only [ceilDiv, List.length_append]
    omega
  have h2 : ceilDiv as.length 16 = k := by
    simp only [ceilDiv]
    omega
  rw [polyUpdate, polyUpdate, polyUpdate, h1, h2, chunks_add, List.foldl_append,
    chunks_append _ _ _ _ (by omega), List.drop_left' hk]

/-! ### AEAD (45_aead.md) -/

@[simp] theorem otk_length (k n : List Byte) : (otk k n).length = 32 := by simp [otk]

@[simp] theorem aeadCrypt_length (k n m : List Byte) : (aeadCrypt k n m).length = m.length := by
  simp [aeadCrypt]

@[simp] theorem aeadTag_length (k n a c : List Byte) : (aeadTag k n a c).length = 16 := by
  simp [aeadTag]

/-! ### SHA-256, HMAC, HKDF (46_sha256.md, 47_hmac_hkdf.md) -/

theorem flatMap_beBytes_length (ws : List Word) :
    (ws.flatMap fun w => beBytes 4 w.toNat).length = 4 * ws.length := by
  induction ws with
  | nil => rfl
  | cons w ws ih =>
    simp only [List.flatMap_cons, List.length_append, beBytes_length, ih, List.length_cons]
    omega

@[simp] theorem shaDigest_length (h : Hash) : (shaDigest h).length = 32 := by
  rw [shaDigest, flatMap_beBytes_length]
  simp

@[simp] theorem sha256_length (m : List Byte) : (sha256 m).length = 32 := by simp [sha256]

@[simp] theorem hmac_length (k m : List Byte) : (hmac k m).length = 32 := by simp [hmac]

@[simp] theorem hkdfExtract_length (salt ikm : List Byte) : (hkdfExtract salt ikm).length = 32 := by
  simp [hkdfExtract]

theorem hkdfBlocks_length (prk info : List Byte) (n i : Nat) (t : List Byte) :
    (hkdfBlocks prk info n i t).length = 32 * n := by
  induction n generalizing i t with
  | zero => rfl
  | succ n ih =>
    simp only [hkdfBlocks, List.length_append, hmac_length, ih]
    omega

@[simp] theorem hkdfExpand_length (prk info : List Byte) (l : Nat) :
    (hkdfExpand prk info l).length = l := by
  have := ceilDiv_mul_ge l 32 (by decide)
  simp only [hkdfExpand, List.length_take, hkdfBlocks_length]
  omega

theorem shaPadZeros_spec (l : Nat) : shaPadZeros l < 64 ∧ (l + 1 + shaPadZeros l) % 64 = 56 := by
  simp only [shaPadZeros]
  omega

/-- A padded message is whole blocks (R256). -/
theorem shaPadding_length (l bits : Nat) : (l + (shaPadding l bits).length) % 64 = 0 := by
  have := shaPadZeros_spec l
  simp only [shaPadding, List.length_append, List.length_cons, List.length_nil, zeros_length,
    beBytes_length]
  omega

/-- Absorbing whole blocks first (R256, R258). -/
theorem shaAbsorb_append (h : Hash) (as bs : List Byte) (hd : as.length % 64 = 0) :
    shaAbsorb h (as ++ bs) = shaAbsorb (shaAbsorb h as) bs := by
  obtain ⟨k, hk⟩ : ∃ k, as.length = 64 * k := ⟨as.length / 64, by omega⟩
  have h1 : (as ++ bs).length / 64 = k + bs.length / 64 := by
    simp only [List.length_append]
    omega
  have h2 : as.length / 64 = k := by omega
  rw [shaAbsorb, shaAbsorb, shaAbsorb, h1, h2, chunks_add, List.foldl_append,
    chunks_append _ _ _ _ (by omega), List.drop_left' hk]

/-- Absorbing a string is absorbing its whole blocks. -/
theorem shaAbsorb_take (h : Hash) (d : List Byte) :
    shaAbsorb h (d.take (64 * (d.length / 64))) = shaAbsorb h d := by
  have hl : (d.take (64 * (d.length / 64))).length = 64 * (d.length / 64) := by
    simp only [List.length_take]
    omega
  conv_rhs => rw [shaAbsorb, ← List.take_append_drop (64 * (d.length / 64)) d]
  rw [shaAbsorb, hl, Nat.mul_div_cancel_left _ (by decide : 0 < 64), List.take_append_drop,
    ← chunks_append 64 (d.length / 64) (d.take (64 * (d.length / 64)))
      (d.drop (64 * (d.length / 64))) (by rw [hl]), List.take_append_drop]

/-- The chunks of a string folded over, as slices of it by number. -/
theorem foldl_chunks {α : Type} (f : α → List Byte → α) (n k : Nat) (a : α) (d : List Byte) :
    (chunks n k d).foldl f a =
      (List.range k).foldl (fun h j => f h ((d.drop (n * j)).take n)) a := by
  induction k generalizing a d with
  | zero => rfl
  | succ k ih =>
    rw [List.range_succ_eq_map, List.foldl_cons, List.foldl_map]
    simp [chunks, ih, List.drop_drop, Nat.mul_succ, Nat.add_comm]

end Sys2Proof.Laws
end

