-- ==== Sys2Proof/Laws/Memory.lean ====
section
/-! SUPPORT. DBUF: every operation keeps the canonical form, a read after a write gives what was written,
a write leaves every other byte alone, and equal contents are equal data. -/

namespace Sys2Proof.Laws

open Sys2Proof.Machine

theorem wf_nil : Memory.wf [] := by decide

theorem wf_cons_iff (k : Nat) (v : Byte) (m : Memory) :
    Memory.wf ((k, v) :: m) ↔ (∀ c ∈ m, k < c.1) ∧ v ≠ 0#8 ∧ Memory.wf m := by
  simp only [Memory.wf, List.pairwise_cons, List.mem_cons, forall_eq_or_imp]
  tauto

/-- Every offset listed after a write was listed before or is the one written. -/
theorem mem_writeByte {m : Memory} {a : Nat} {b : Byte} {c : Host.Cell}
    (h : c ∈ m.writeByte a b) : c ∈ m ∨ c = (a, b) := by
  induction m with
  | nil =>
    simp only [Memory.writeByte] at h
    split at h <;> simp_all
  | cons e m ih =>
    obtain ⟨k, v⟩ := e
    simp only [Memory.writeByte] at h
    split at h
    · split at h
      · exact .inl h
      · rcases List.mem_cons.mp h with rfl | h
        · exact .inr rfl
        · exact .inl h
    · split at h
      · split at h
        · exact .inl (List.mem_cons_of_mem _ h)
        · rcases List.mem_cons.mp h with rfl | h
          · exact .inr rfl
          · exact .inl (List.mem_cons_of_mem _ h)
      · rcases List.mem_cons.mp h with rfl | h
        · simp
        · rcases ih h with h | h <;> simp [h]

theorem writeByte_wf {m : Memory} (h : m.wf) (a : Nat) (b : Byte) : (m.writeByte a b).wf := by
  induction m with
  | nil =>
    simp only [Memory.writeByte]
    split
    · exact wf_nil
    · rename_i hb
      simp [Memory.wf, hb]
  | cons e m ih =>
    obtain ⟨k, v⟩ := e
    obtain ⟨hk, hv, hm⟩ := (wf_cons_iff k v m).mp h
    simp only [Memory.writeByte]
    split
    · rename_i hak
      split
      · exact h
      · rename_i hb
        refine (wf_cons_iff _ _ _).mpr ⟨?_, hb, h⟩
        intro c hc
        rcases List.mem_cons.mp hc with rfl | hc
        · exact hak
        · exact lt_trans hak (hk c hc)
    · split
      · split
        · exact hm
        · rename_i hak hb
          exact (wf_cons_iff _ _ _).mpr ⟨hak ▸ hk, hb, hm⟩
      · rename_i h1 h2
        refine (wf_cons_iff _ _ _).mpr ⟨?_, hv, ih hm⟩
        intro c hc
        rcases mem_writeByte hc with hc | rfl
        · exact hk c hc
        · simp only
          omega

theorem writeByte_below {m : Memory} {n : Nat} (h : m.below n) {a : Nat} (ha : a < n) (b : Byte) :
    (m.writeByte a b).below n := by
  intro c hc
  rcases mem_writeByte hc with hc | rfl
  · exact h c hc
  · exact ha

theorem writeBytes_wf {m : Memory} (h : m.wf) (a : Nat) (bs : List Byte) : (m.writeBytes a bs).wf := by
  induction bs generalizing m a with
  | nil => exact h
  | cons b bs ih => exact ih (writeByte_wf h a b) (a + 1)

theorem writeBytes_below {m : Memory} {n : Nat} (h : m.below n) {a : Nat} {bs : List Byte}
    (ha : bs = [] ∨ a + bs.length ≤ n) : (m.writeBytes a bs).below n := by
  induction bs generalizing m a with
  | nil => exact h
  | cons b bs ih =>
    have hle : a + (bs.length + 1) ≤ n := by simpa using ha
    exact ih (writeByte_below h (by omega) b) (.inr (by omega))

/-- An offset below every listed one reads as 0x00. -/
theorem readByte_of_lt {m : Memory} {a : Nat} (h : ∀ c ∈ m, a < c.1) : m.readByte a = 0#8 := by
  induction m with
  | nil => rfl
  | cons e m ih =>
    obtain ⟨k, v⟩ := e
    have hk : a < k := h (k, v) (by simp)
    have : ¬k = a := by omega
    rw [Memory.readByte, if_neg this]
    exact ih fun c hc => h c (by simp [hc])

/-- A read after a write of one byte: the byte written at its offset, the old byte elsewhere. -/
theorem readByte_writeByte {m : Memory} (h : m.wf) (a k : Nat) (b : Byte) :
    (m.writeByte a b).readByte k = if k = a then b else m.readByte k := by
  induction m with
  | nil =>
    have hsymm : (a = k) = (k = a) := propext eq_comm
    by_cases hb : b = 0#8 <;> by_cases hk : k = a <;>
      simp [Memory.writeByte, Memory.readByte, hb, hk, hsymm]
  | cons e m ih =>
    obtain ⟨j, v⟩ := e
    obtain ⟨hj, hv, hm⟩ := (wf_cons_iff j v m).mp h
    simp only [Memory.writeByte]
    split
    · rename_i haj
      have h0 : Memory.readByte ((j, v) :: m) a = 0#8 := by
        apply readByte_of_lt
        intro c hc
        rcases List.mem_cons.mp hc with rfl | hc
        · exact haj
        · exact lt_trans haj (hj c hc)
      split
      · rename_i hb
        split
        · rename_i hk
          rw [hk, h0, hb]
        · rfl
      · by_cases hk : a = k
        · simp [Memory.readByte, hk]
        · simp [Memory.readByte, hk, Ne.symm hk, eq_comm]
    · split
      · rename_i h1 h2
        subst h2
        have h0 : Memory.readByte m a = 0#8 := readByte_of_lt hj
        by_cases hb : b = 0#8 <;> by_cases hk : k = a
        · simp [hb, hk, h0]
        · simp [hb, hk, Memory.readByte, Ne.symm hk]
        · simp [hb, hk, Memory.readByte]
        · simp [hb, hk, Memory.readByte, Ne.symm hk]
      · rename_i h1 h2
        by_cases hk : j = k
        · have : ¬k = a := by omega
          simp [Memory.readByte, hk, this]
        · simp [Memory.readByte, hk, ih hm]

theorem readByte_writeBytes {m : Memory} (h : m.wf) (a k : Nat) (bs : List Byte) :
    (m.writeBytes a bs).readByte k =
      if a ≤ k ∧ k < a + bs.length then bs.getD (k - a) 0#8 else m.readByte k := by
  induction bs generalizing m a with
  | nil =>
    rw [Memory.writeBytes, if_neg]
    simp
  | cons b bs ih =>
    rw [Memory.writeBytes, ih (writeByte_wf h a b), readByte_writeByte h]
    simp only [List.length_cons]
    by_cases h1 : k = a
    · subst h1
      simp
    · by_cases h2 : a ≤ k ∧ k < a + (bs.length + 1)
      · have h3 : a + 1 ≤ k ∧ k < a + 1 + bs.length := by omega
        rw [if_pos h3, if_pos h2]
        obtain ⟨d, rfl⟩ : ∃ d, k = a + 1 + d := ⟨k - (a + 1), by omega⟩
        rw [show a + 1 + d - (a + 1) = d by omega, show a + 1 + d - a = d + 1 by omega,
          List.getD_cons_succ]
      · have h3 : ¬(a + 1 ≤ k ∧ k < a + 1 + bs.length) := by omega
        rw [if_neg h3, if_neg h2, if_neg h1]

/-- A read of the bytes just written gives them. -/
theorem holds_writeBytes {m : Memory} (h : m.wf) (a : Nat) (bs : List Byte) :
    (m.writeBytes a bs).Holds a bs := by
  intro i hi
  rw [readByte_writeBytes h, if_pos ⟨by omega, by omega⟩, Nat.add_sub_cancel_left]

/-- A write leaves every byte outside it alone. -/
theorem sameOutside_writeBytes {m : Memory} (h : m.wf) (a : Nat) (bs : List Byte) :
    m.SameOutside (m.writeBytes a bs) a bs.length := by
  intro k hk
  rw [readByte_writeBytes h, if_neg]
  omega

@[simp] theorem readBytes_length (m : Memory) (a n : Nat) : (m.readBytes a n).length = n := by
  simp [Memory.readBytes]

@[simp] theorem memRead_length (s : State) (a n : Nat) : (s.memRead a n).length = n := by
  simp [State.memRead]

theorem readBytes_getD (m : Memory) (a n i : Nat) (h : i < n) :
    (m.readBytes a n).getD i 0#8 = m.readByte (a + i) := by
  rw [List.getD_eq_getElem _ _ (by simpa using h)]
  simp [Memory.readBytes]

/-- A string read is determined by its bytes. -/
theorem readBytes_eq_iff (m : Memory) (a : Nat) (bs : List Byte) :
    m.readBytes a bs.length = bs ↔ m.Holds a bs := by
  constructor
  · intro h i hi
    rw [← readBytes_getD m a bs.length i hi, h]
  · intro h
    apply List.ext_getElem (by simp)
    intro i h1 h2
    have := h i h2
    rw [List.getD_eq_getElem _ _ h2] at this
    simpa [Memory.readBytes] using this

theorem readBytes_congr {m m' : Memory} {a n : Nat}
    (h : ∀ i, i < n → m'.readByte (a + i) = m.readByte (a + i)) :
    m'.readBytes a n = m.readBytes a n := by
  simp only [Memory.readBytes]
  exact List.map_congr_left fun i hi => h i (List.mem_range.mp hi)

/-- MemRead after MemWrite of the same region gives the string written. -/
theorem readBytes_writeBytes {m : Memory} (h : m.wf) (a : Nat) (bs : List Byte) :
    (m.writeBytes a bs).readBytes a bs.length = bs :=
  (readBytes_eq_iff _ _ _).mpr (holds_writeBytes h a bs)

/-- MemRead of a region apart from the one written gives what it gave before. -/
theorem readBytes_writeBytes_of_disjoint {m : Memory} (h : m.wf) {a : Nat} {bs : List Byte} {c n : Nat}
    (hd : c + n ≤ a ∨ a + bs.length ≤ c) :
    (m.writeBytes a bs).readBytes c n = m.readBytes c n :=
  readBytes_congr fun i hi => sameOutside_writeBytes h a bs _ (by omega)

/-- Two memories in canonical form with the same bytes are the same data. -/
theorem eq_of_readByte_eq {m m' : Memory} (h : m.wf) (h' : m'.wf)
    (heq : ∀ k, m.readByte k = m'.readByte k) : m = m' := by
  induction m generalizing m' with
  | nil =>
    cases m' with
    | nil => rfl
    | cons e m' =>
      obtain ⟨k, v⟩ := e
      have := heq k
      obtain ⟨-, hv, -⟩ := (wf_cons_iff k v m').mp h'
      simp only [Memory.readByte, if_true] at this
      exact absurd this.symm hv
  | cons e m ih =>
    obtain ⟨k, v⟩ := e
    obtain ⟨hk, hv, hm⟩ := (wf_cons_iff k v m).mp h
    cases m' with
    | nil =>
      have := heq k
      simp only [Memory.readByte, if_true] at this
      exact absurd this hv
    | cons e' m' =>
      obtain ⟨k', v'⟩ := e'
      obtain ⟨hk', hv', hm'⟩ := (wf_cons_iff k' v' m').mp h'
      have hkk : k = k' := by
        rcases Nat.lt_trichotomy k k' with hlt | heqk | hlt
        · have h0 : Memory.readByte ((k', v') :: m') k = 0#8 := by
            apply readByte_of_lt
            intro c hc
            rcases List.mem_cons.mp hc with rfl | hc
            · exact hlt
            · exact lt_trans hlt (hk' c hc)
          have := heq k
          rw [h0] at this
          simp only [Memory.readByte, if_true] at this
          exact absurd this hv
        · exact heqk
        · have h0 : Memory.readByte ((k, v) :: m) k' = 0#8 := by
            apply readByte_of_lt
            intro c hc
            rcases List.mem_cons.mp hc with rfl | hc
            · exact hlt
            · exact lt_trans hlt (hk c hc)
          have := heq k'
          rw [h0] at this
          simp only [Memory.readByte, if_true] at this
          exact absurd this.symm hv'
      subst hkk
      have hvv : v = v' := by simpa [Memory.readByte] using heq k
      subst hvv
      rw [ih hm hm']
      intro j
      by_cases hj : k = j
      · subst hj
        rw [readByte_of_lt hk, readByte_of_lt hk']
      · simpa [Memory.readByte, hj] using heq j

/-- The one operation that stores to DBUF keeps its canonical form, and its offsets below DBUF_SIZE when
the region written is in bounds. -/
theorem memWrite_memoryInv {s : State} (h : s.MemoryInv) {a : Nat} {bs : List Byte}
    (hb : bs = [] ∨ a + bs.length ≤ s.dbufSize) : (s.memWrite a bs).MemoryInv :=
  ⟨writeBytes_wf h.1 a bs, writeBytes_below h.2 hb⟩

end Sys2Proof.Laws
end

