-- ==== Sys2Proof/Laws/Exec.lean ====
section
/-! SUPPORT. What `exec` can do, said once for all commands, and when each command's checks pass or fail,
in plain inequalities on its ARGs. -/

namespace Sys2Proof.Laws

open Sys2Proof.Machine

/-- An accepted command with a failed check completes with that check's code and nothing else (R307). -/
theorem exec_of_failure {i : Instr} {s : State} {e : ErrCode} (h : checkFailure i s = some e) :
    exec i s = .next (s.complete e) := by
  cases i <;> exact runJudged_of_failure h

/-- Every command is the shared shape: the checks, then a body that ends with OK or, for `aead.dec`,
E_AUTH. No body writes an ARG, CMD, CTRL.IE, HOSTERR, DBUF_SIZE or the model's own fields. -/
theorem exec_shape (i : Instr) (s : State) :
    ∃ b : State × ErrCode, exec i s = runJudged i s b ∧
      (b.2 = .ok ∨ i = .aeadDec ∧ b = ({ s with result := true }, .auth)) ∧
      b.1.args = s.args ∧ b.1.cmd = s.cmd ∧ b.1.ie = s.ie ∧ b.1.hostErr = s.hostErr ∧
      b.1.dbufSize = s.dbufSize ∧ b.1.rdata = s.rdata ∧ b.1.schedule = s.schedule := by
  cases i
  case aeadDec =>
    simp only [exec, execAeadDec]
    refine ⟨_, rfl, ?_⟩
    generalize orBytes _ = d
    by_cases hd : d = 0#8 <;> simp [hd]
  all_goals
    refine ⟨(_, .ok), rfl, .inl rfl, ?_⟩
    simp [State.setFe, State.setLadder]

/-- What an accepted command can do. -/
theorem exec_cases {i : Instr} {s t : State} (h : exec i s = .next t) :
    (∃ e, checkFailure i s = some e ∧ t = s.complete e) ∨ checkFailure i s = none := by
  cases hc : checkFailure i s with
  | none => exact .inr rfl
  | some e =>
    rw [exec_of_failure hc] at h
    exact .inl ⟨e, rfl, by simpa using h.symm⟩

/-- Every accepted command completes, with STATUS as R306 has it and the host's registers as they were. -/
theorem exec_completes (i : Instr) (s : State) :
    ∃ t, exec i s = .next t ∧ t.busy = false ∧ t.done = true ∧ t.args = s.args ∧ t.cmd = s.cmd ∧
      t.ie = s.ie ∧ t.hostErr = s.hostErr ∧ t.dbufSize = s.dbufSize ∧ t.rdata = s.rdata ∧
      t.schedule = s.schedule := by
  obtain ⟨b, hb, -, hf⟩ := exec_shape i s
  cases hc : checkFailure i s with
  | some e => exact ⟨s.complete e, exec_of_failure hc, rfl, rfl, rfl, rfl, rfl, rfl, rfl, rfl, rfl⟩
  | none => exact ⟨b.1.complete b.2, by rw [hb, runJudged_of_pass hc], rfl, rfl, hf⟩

/-! ### When the checks of each command pass (R305)

The checks of a command pass exactly when its regions are in bounds, its outputs are apart from what they
may not overlap, and its flags are set. -/

theorem overlaps_eq_false_iff (r q : Region) :
    r.overlaps q = false ↔ Apart r.addr r.len q.addr q.len := by
  rw [← Bool.not_eq_true, overlaps_iff, Apart]
  omega

theorem overlapBroken_eq_false_iff (c : Checks) :
    c.overlapBroken = false ↔
      (∀ q ∈ c.outs.zipIdx, ∀ r ∈ c.outs.zipIdx, q.2 < r.2 → Apart q.1.addr q.1.len r.1.addr r.1.len) ∧
      ∀ r ∈ c.ins.zipIdx, ∀ q ∈ c.outs.zipIdx,
        (c.inPlace = some (r.2, q.2) ∧ r.1 = q.1) ∨ Apart r.1.addr r.1.len q.1.addr q.1.len := by
  have key : ∀ (r q : Region) (a : Prop), (r.overlaps q = true → a) ↔
      a ∨ Apart r.addr r.len q.addr q.len := by
    intro r q a
    rw [← overlaps_eq_false_iff]
    cases r.overlaps q <;> simp
  simp only [Checks.overlapBroken, Bool.or_eq_false_iff, List.any_eq_false, Bool.not_eq_true,
    decide_eq_false_iff_not, not_and, overlaps_eq_false_iff, key, Classical.not_imp, not_not]

theorem checkFailure_eq_none_iff (i : Instr) (s : State) :
    checkFailure i s = none ↔
      (commandChecks i s).fieldOk = true ∧ (commandChecks i s).lengthOk = true ∧
      (∀ r ∈ (commandChecks i s).ins ++ (commandChecks i s).outs, Fits r.addr r.len s.dbufSize) ∧
      (commandChecks i s).overlapBroken = false ∧ (commandChecks i s).sequenceOk = true := by
  rw [checkFailure, failure_eq_none_iff, inBounds_all_iff]

section

set_option linter.unusedSimpArgs false

theorem checks_memzero (s : State) :
    checkFailure .memzero s = none ↔
        Fits (s.arg 0) (s.arg 1) s.dbufSize := by
  simp [checkFailure_eq_none_iff, commandChecks, overlapBroken_eq_false_iff, State.fixed,
    State.sized, Fits, Apart, and_assoc]

theorem checks_ctEq (s : State) :
    checkFailure .ctEq s = none ↔
        Fits (s.arg 0) (s.arg 2) s.dbufSize ∧ Fits (s.arg 1) (s.arg 2) s.dbufSize := by
  simp [checkFailure_eq_none_iff, commandChecks, overlapBroken_eq_false_iff, State.fixed,
    State.sized, Fits, Apart, and_assoc]

theorem checks_feLoad (s : State) (a : Idx) :
    checkFailure (.feLoad a) s = none ↔
        s.arg 0 + 32 ≤ s.dbufSize := by
  simp [checkFailure_eq_none_iff, commandChecks, overlapBroken_eq_false_iff, State.fixed,
    State.sized, Fits, Apart, and_assoc]

theorem checks_feStore (s : State) (b : Idx) :
    checkFailure (.feStore b) s = none ↔
        s.arg 0 + 32 ≤ s.dbufSize := by
  simp [checkFailure_eq_none_iff, commandChecks, overlapBroken_eq_false_iff, State.fixed,
    State.sized, Fits, Apart, and_assoc]

theorem checks_xLdscalar (s : State) :
    checkFailure .xLdscalar s = none ↔
        s.arg 0 + 32 ≤ s.dbufSize := by
  simp [checkFailure_eq_none_iff, commandChecks, overlapBroken_eq_false_iff, State.fixed,
    State.sized, Fits, Apart, and_assoc]

theorem checks_xStep (s : State) (n : Fin 256) :
    checkFailure (.xStep n) s = none ↔
        s.flags.xScalarValid = true ∧ s.flags.xLadderActive = true := by
  simp [checkFailure_eq_none_iff, commandChecks, overlapBroken_eq_false_iff]

theorem checks_xFinish (s : State) (a : Idx) :
    checkFailure (.xFinish a) s = none ↔
        s.flags.xLadderActive = true := by
  simp [checkFailure_eq_none_iff, commandChecks, overlapBroken_eq_false_iff]

theorem checks_x25519 (s : State) :
    checkFailure .x25519 s = none ↔
        s.arg 0 + 32 ≤ s.dbufSize ∧ s.arg 1 + 32 ≤ s.dbufSize ∧ s.arg 2 + 32 ≤ s.dbufSize ∧
        Apart (s.arg 0) 32 (s.arg 2) 32 ∧ (s.arg 1 = s.arg 2 ∨ Apart (s.arg 1) 32 (s.arg 2) 32) := by
  simp [checkFailure_eq_none_iff, commandChecks, overlapBroken_eq_false_iff, State.fixed,
    State.sized, Fits, Apart, and_assoc]

theorem checks_xKeygen (s : State) :
    checkFailure .xKeygen s = none ↔
        s.arg 0 + 32 ≤ s.dbufSize ∧ s.arg 1 + 32 ≤ s.dbufSize ∧ s.arg 2 + 32 ≤ s.dbufSize ∧
        (s.arg 0 = s.arg 1 ∨ Apart (s.arg 0) 32 (s.arg 1) 32) ∧ Apart (s.arg 0) 32 (s.arg 2) 32 ∧
        Apart (s.arg 1) 32 (s.arg 2) 32 := by
  simp [checkFailure_eq_none_iff, commandChecks, overlapBroken_eq_false_iff, State.fixed,
    State.sized, Fits, Apart, and_assoc]
  tauto

theorem checks_ccInit (s : State) :
    checkFailure .ccInit s = none ↔
        s.arg 0 + 32 ≤ s.dbufSize ∧ s.arg 1 + 12 ≤ s.dbufSize := by
  simp [checkFailure_eq_none_iff, commandChecks, overlapBroken_eq_false_iff, State.fixed,
    State.sized, Fits, Apart, and_assoc]

theorem checks_ccQr (s : State) (a b c d : Idx) :
    checkFailure (.ccQr a b c d) s = none ↔
        s.flags.ccKeyed = true := by
  simp [checkFailure_eq_none_iff, commandChecks, overlapBroken_eq_false_iff]

theorem checks_ccDround (s : State) :
    checkFailure .ccDround s = none ↔
        s.flags.ccKeyed = true := by
  simp [checkFailure_eq_none_iff, commandChecks, overlapBroken_eq_false_iff]

theorem checks_ccLoadx (s : State) :
    checkFailure .ccLoadx s = none ↔
        s.flags.ccKeyed = true := by
  simp [checkFailure_eq_none_iff, commandChecks, overlapBroken_eq_false_iff]

theorem checks_ccAddout (s : State) :
    checkFailure .ccAddout s = none ↔
        s.arg 0 + 64 ≤ s.dbufSize ∧ s.flags.ccKeyed = true := by
  simp [checkFailure_eq_none_iff, commandChecks, overlapBroken_eq_false_iff, State.fixed,
    State.sized, Fits, Apart, and_assoc]

theorem checks_ccBlock (s : State) :
    checkFailure .ccBlock s = none ↔
        s.arg 0 + 64 ≤ s.dbufSize ∧ s.flags.ccKeyed = true := by
  simp [checkFailure_eq_none_iff, commandChecks, overlapBroken_eq_false_iff, State.fixed,
    State.sized, Fits, Apart, and_assoc]

theorem checks_ccXor (s : State) :
    checkFailure .ccXor s = none ↔
        Fits (s.arg 0) (s.arg 2) s.dbufSize ∧ Fits (s.arg 1) (s.arg 2) s.dbufSize ∧
        (s.arg 0 = s.arg 1 ∨ Apart (s.arg 0) (s.arg 2) (s.arg 1) (s.arg 2)) ∧ s.flags.ccKeyed = true := by
  simp [checkFailure_eq_none_iff, commandChecks, overlapBroken_eq_false_iff, State.fixed,
    State.sized, Fits, Apart, and_assoc]

theorem checks_pKey (s : State) :
    checkFailure .pKey s = none ↔
        s.arg 0 + 32 ≤ s.dbufSize := by
  simp [checkFailure_eq_none_iff, commandChecks, overlapBroken_eq_false_iff, State.fixed,
    State.sized, Fits, Apart, and_assoc]

theorem checks_pAcc (s : State) :
    checkFailure .pAcc s = none ↔
        1 ≤ s.arg 1 ∧ s.arg 1 ≤ 16 ∧ s.arg 0 + s.arg 1 ≤ s.dbufSize ∧ s.flags.pKeyed = true := by
  simp [checkFailure_eq_none_iff, commandChecks, overlapBroken_eq_false_iff, State.fixed,
    State.sized, Fits, Apart, and_assoc]
  intro h _ _ h0
  omega

theorem checks_pMul (s : State) :
    checkFailure .pMul s = none ↔
        s.flags.pKeyed = true := by
  simp [checkFailure_eq_none_iff, commandChecks, overlapBroken_eq_false_iff]

theorem checks_pUpdate (s : State) :
    checkFailure .pUpdate s = none ↔
        Fits (s.arg 0) (s.arg 1) s.dbufSize ∧ s.flags.pKeyed = true := by
  simp [checkFailure_eq_none_iff, commandChecks, overlapBroken_eq_false_iff, State.fixed,
    State.sized, Fits, Apart, and_assoc]

theorem checks_pFinal (s : State) :
    checkFailure .pFinal s = none ↔
        s.arg 0 + 16 ≤ s.dbufSize ∧ s.flags.pKeyed = true := by
  simp [checkFailure_eq_none_iff, commandChecks, overlapBroken_eq_false_iff, State.fixed,
    State.sized, Fits, Apart, and_assoc]

theorem checks_pMac (s : State) :
    checkFailure .pMac s = none ↔
        s.arg 0 + 32 ≤ s.dbufSize ∧ Fits (s.arg 1) (s.arg 2) s.dbufSize ∧ s.arg 3 + 16 ≤ s.dbufSize ∧
        Apart (s.arg 0) 32 (s.arg 3) 16 ∧ Apart (s.arg 1) (s.arg 2) (s.arg 3) 16 := by
  simp [checkFailure_eq_none_iff, commandChecks, overlapBroken_eq_false_iff, State.fixed,
    State.sized, Fits, Apart, and_assoc]

theorem checks_aeadEnc (s : State) :
    checkFailure .aeadEnc s = none ↔
        s.arg 0 + 32 ≤ s.dbufSize ∧ s.arg 1 + 12 ≤ s.dbufSize ∧ Fits (s.arg 2) (s.arg 3) s.dbufSize ∧
        Fits (s.arg 4) (s.arg 5) s.dbufSize ∧ Fits (s.arg 6) (s.arg 5) s.dbufSize ∧
        s.arg 7 + 16 ≤ s.dbufSize ∧ Apart (s.arg 6) (s.arg 5) (s.arg 7) 16 ∧
        Apart (s.arg 0) 32 (s.arg 6) (s.arg 5) ∧ Apart (s.arg 0) 32 (s.arg 7) 16 ∧
        Apart (s.arg 1) 12 (s.arg 6) (s.arg 5) ∧ Apart (s.arg 1) 12 (s.arg 7) 16 ∧
        Apart (s.arg 2) (s.arg 3) (s.arg 6) (s.arg 5) ∧ Apart (s.arg 2) (s.arg 3) (s.arg 7) 16 ∧
        (s.arg 4 = s.arg 6 ∨ Apart (s.arg 4) (s.arg 5) (s.arg 6) (s.arg 5)) ∧
        Apart (s.arg 4) (s.arg 5) (s.arg 7) 16 := by
  simp [checkFailure_eq_none_iff, commandChecks, overlapBroken_eq_false_iff, State.fixed,
    State.sized, Fits, Apart, and_assoc]

theorem checks_aeadDec (s : State) :
    checkFailure .aeadDec s = none ↔
        s.arg 0 + 32 ≤ s.dbufSize ∧ s.arg 1 + 12 ≤ s.dbufSize ∧ Fits (s.arg 2) (s.arg 3) s.dbufSize ∧
        Fits (s.arg 4) (s.arg 5) s.dbufSize ∧ s.arg 7 + 16 ≤ s.dbufSize ∧
        Fits (s.arg 6) (s.arg 5) s.dbufSize ∧
        Apart (s.arg 0) 32 (s.arg 6) (s.arg 5) ∧ Apart (s.arg 1) 12 (s.arg 6) (s.arg 5) ∧
        Apart (s.arg 2) (s.arg 3) (s.arg 6) (s.arg 5) ∧
        (s.arg 4 = s.arg 6 ∨ Apart (s.arg 4) (s.arg 5) (s.arg 6) (s.arg 5)) ∧
        Apart (s.arg 7) 16 (s.arg 6) (s.arg 5) := by
  simp [checkFailure_eq_none_iff, commandChecks, overlapBroken_eq_false_iff, State.fixed,
    State.sized, Fits, Apart, and_assoc]

theorem checks_shaUpdate (s : State) :
    checkFailure .shaUpdate s = none ↔
        Fits (s.arg 0) (s.arg 1) s.dbufSize ∧ s.flags.shaActive = true := by
  simp [checkFailure_eq_none_iff, commandChecks, overlapBroken_eq_false_iff, State.fixed,
    State.sized, Fits, Apart, and_assoc]

theorem checks_shaFinal (s : State) :
    checkFailure .shaFinal s = none ↔
        s.arg 0 + 32 ≤ s.dbufSize ∧ s.flags.shaActive = true := by
  simp [checkFailure_eq_none_iff, commandChecks, overlapBroken_eq_false_iff, State.fixed,
    State.sized, Fits, Apart, and_assoc]

theorem checks_shaLoadblk (s : State) :
    checkFailure .shaLoadblk s = none ↔
        s.arg 0 + 64 ≤ s.dbufSize ∧ s.flags.shaActive = true := by
  simp [checkFailure_eq_none_iff, commandChecks, overlapBroken_eq_false_iff, State.fixed,
    State.sized, Fits, Apart, and_assoc]

theorem checks_shaRound (s : State) (n : Fin 256) :
    checkFailure (.shaRound n) s = none ↔
        n.val < 64 ∧ s.flags.shaActive = true := by
  simp [checkFailure_eq_none_iff, commandChecks, overlapBroken_eq_false_iff]

theorem checks_shaFold (s : State) :
    checkFailure .shaFold s = none ↔
        s.flags.shaActive = true := by
  simp [checkFailure_eq_none_iff, commandChecks, overlapBroken_eq_false_iff]

theorem checks_sha256 (s : State) :
    checkFailure .sha256 s = none ↔
        Fits (s.arg 0) (s.arg 1) s.dbufSize ∧ s.arg 2 + 32 ≤ s.dbufSize ∧
        Apart (s.arg 0) (s.arg 1) (s.arg 2) 32 := by
  simp [checkFailure_eq_none_iff, commandChecks, overlapBroken_eq_false_iff, State.fixed,
    State.sized, Fits, Apart, and_assoc]

theorem checks_hmac (s : State) :
    checkFailure .hmac s = none ↔
        Fits (s.arg 0) (s.arg 1) s.dbufSize ∧ Fits (s.arg 2) (s.arg 3) s.dbufSize ∧
        s.arg 4 + 32 ≤ s.dbufSize ∧ Apart (s.arg 0) (s.arg 1) (s.arg 4) 32 ∧
        Apart (s.arg 2) (s.arg 3) (s.arg 4) 32 := by
  simp [checkFailure_eq_none_iff, commandChecks, overlapBroken_eq_false_iff, State.fixed,
    State.sized, Fits, Apart, and_assoc]

theorem checks_hkdfExtract (s : State) :
    checkFailure .hkdfExtract s = none ↔
        Fits (s.arg 0) (s.arg 1) s.dbufSize ∧ Fits (s.arg 2) (s.arg 3) s.dbufSize := by
  simp [checkFailure_eq_none_iff, commandChecks, overlapBroken_eq_false_iff, State.fixed,
    State.sized, Fits, Apart, and_assoc]

theorem checks_hkdfExpand (s : State) :
    checkFailure .hkdfExpand s = none ↔
        s.arg 3 ≤ Config.hkdfMaxLength ∧ Fits (s.arg 0) (s.arg 1) s.dbufSize ∧
        Fits (s.arg 2) (s.arg 3) s.dbufSize ∧ Apart (s.arg 0) (s.arg 1) (s.arg 2) (s.arg 3) ∧
        s.flags.prkValid = true := by
  simp [checkFailure_eq_none_iff, commandChecks, overlapBroken_eq_false_iff, State.fixed,
    State.sized, Fits, Apart, and_assoc]

theorem checks_hkdf (s : State) :
    checkFailure .hkdf s = none ↔
        s.arg 7 ≤ Config.hkdfMaxLength ∧ Fits (s.arg 0) (s.arg 1) s.dbufSize ∧
        Fits (s.arg 2) (s.arg 3) s.dbufSize ∧ Fits (s.arg 4) (s.arg 5) s.dbufSize ∧
        Fits (s.arg 6) (s.arg 7) s.dbufSize ∧ Apart (s.arg 0) (s.arg 1) (s.arg 6) (s.arg 7) ∧
        Apart (s.arg 2) (s.arg 3) (s.arg 6) (s.arg 7) ∧ Apart (s.arg 4) (s.arg 5) (s.arg 6) (s.arg 7) := by
  simp [checkFailure_eq_none_iff, commandChecks, overlapBroken_eq_false_iff, State.fixed,
    State.sized, Fits, Apart, and_assoc]

end

end Sys2Proof.Laws
end

