-- ==== Sys2Proof/Laws/PerInstr.lean ====
section
/-! SUPPORT. The family MatchesTableRow: the word of a command holds, in every bit range its row of
spec/opcode_table.json fixes ("fixed"), the value the row fixes there. -/

namespace Sys2Proof.Laws.MatchesTableRow

/-- The bit ranges a row fixes: the lowest bit, the number of bits, the value. -/
def rowFixed : Instr → List (Nat × Nat × Nat)
  | .nop => [(0, 32, 0)]
  | .zeroize => [(0, 32, 1)]
  | .memzero => [(0, 32, 2)]
  | .ctEq => [(0, 32, 3)]
  | .feLoad _ => [(0, 8, 16), (12, 20, 0)]
  | .feStore _ => [(0, 12, 17), (16, 16, 0)]
  | .feSeti _ => [(0, 8, 18), (12, 20, 0)]
  | .feMov _ _ => [(0, 8, 19), (16, 16, 0)]
  | .feAdd _ _ _ => [(0, 8, 20), (20, 12, 0)]
  | .feSub _ _ _ => [(0, 8, 21), (20, 12, 0)]
  | .feMul _ _ _ => [(0, 8, 22), (20, 12, 0)]
  | .feSqr _ _ => [(0, 8, 23), (16, 16, 0)]
  | .feMula24 _ _ => [(0, 8, 24), (16, 16, 0)]
  | .feInv _ _ => [(0, 8, 25), (16, 16, 0)]
  | .feCswap _ _ => [(0, 8, 26), (16, 16, 0)]
  | .xLdscalar => [(0, 32, 32)]
  | .xInit _ => [(0, 12, 33), (16, 16, 0)]
  | .xStep _ => [(0, 24, 34)]
  | .xFinish _ => [(0, 8, 35), (12, 20, 0)]
  | .x25519 => [(0, 32, 36)]
  | .xKeygen => [(0, 32, 37)]
  | .ccInit => [(0, 32, 48)]
  | .ccQr _ _ _ _ => [(0, 8, 49), (24, 8, 0)]
  | .ccDround => [(0, 32, 50)]
  | .ccLoadx => [(0, 32, 51)]
  | .ccAddout => [(0, 32, 52)]
  | .ccBlock => [(0, 32, 53)]
  | .ccXor => [(0, 32, 54)]
  | .pKey => [(0, 32, 64)]
  | .pAcc => [(0, 32, 65)]
  | .pMul => [(0, 32, 66)]
  | .pUpdate => [(0, 32, 67)]
  | .pFinal => [(0, 32, 68)]
  | .pMac => [(0, 32, 69)]
  | .aeadEnc => [(0, 32, 80)]
  | .aeadDec => [(0, 32, 81)]
  | .shaInit => [(0, 32, 96)]
  | .shaUpdate => [(0, 32, 97)]
  | .shaFinal => [(0, 32, 98)]
  | .shaLoadblk => [(0, 32, 99)]
  | .shaRound _ => [(0, 24, 100)]
  | .shaFold => [(0, 32, 101)]
  | .sha256 => [(0, 32, 102)]
  | .hmac => [(0, 32, 112)]
  | .hkdfExtract => [(0, 32, 113)]
  | .hkdfExpand => [(0, 32, 114)]
  | .hkdf => [(0, 32, 115)]

theorem bits_of_word {w : Word} {n lo len v : Nat} (hw : w.toNat = n) (h : n / 2 ^ lo % 2 ^ len = v) :
    CmdField.bits w lo len = v := by
  rw [CmdField.bits, hw, h]

/-- The word of `i` agrees with its row of the opcode table. -/
def Statement (i : Instr) : Prop := ∀ f ∈ rowFixed i, CmdField.bits (encode i) f.1 f.2.1 = f.2.2

theorem nop : Statement .nop := by unfold Statement; decide
theorem zeroize : Statement .zeroize := by unfold Statement; decide
theorem memzero : Statement .memzero := by unfold Statement; decide
theorem ctEq : Statement .ctEq := by unfold Statement; decide
theorem feLoad (a : Idx) : Statement (.feLoad a) := by
  intro f hf
  simp only [rowFixed, List.mem_cons, List.not_mem_nil, or_false] at hf
  rcases hf with rfl | rfl <;>
    exact bits_of_word (packWord_toNat 16 (by decide) a 0 0 0 0) (by
      simp only [Fin.coe_ofNat_eq_mod]; omega)
theorem feStore (b : Idx) : Statement (.feStore b) := by
  intro f hf
  simp only [rowFixed, List.mem_cons, List.not_mem_nil, or_false] at hf
  rcases hf with rfl | rfl <;>
    exact bits_of_word (packWord_toNat 17 (by decide) 0 b 0 0 0) (by
      simp only [Fin.coe_ofNat_eq_mod]; omega)
theorem feSeti (a : Idx) : Statement (.feSeti a) := by
  intro f hf
  simp only [rowFixed, List.mem_cons, List.not_mem_nil, or_false] at hf
  rcases hf with rfl | rfl <;>
    exact bits_of_word (packWord_toNat 18 (by decide) a 0 0 0 0) (by
      simp only [Fin.coe_ofNat_eq_mod]; omega)
theorem feMov (a b : Idx) : Statement (.feMov a b) := by
  intro f hf
  simp only [rowFixed, List.mem_cons, List.not_mem_nil, or_false] at hf
  rcases hf with rfl | rfl <;>
    exact bits_of_word (packWord_toNat 19 (by decide) a b 0 0 0) (by
      simp only [Fin.coe_ofNat_eq_mod]; omega)
theorem feAdd (a b c : Idx) : Statement (.feAdd a b c) := by
  intro f hf
  simp only [rowFixed, List.mem_cons, List.not_mem_nil, or_false] at hf
  rcases hf with rfl | rfl <;>
    exact bits_of_word (packWord_toNat 20 (by decide) a b c 0 0) (by
      simp only [Fin.coe_ofNat_eq_mod]; omega)
theorem feSub (a b c : Idx) : Statement (.feSub a b c) := by
  intro f hf
  simp only [rowFixed, List.mem_cons, List.not_mem_nil, or_false] at hf
  rcases hf with rfl | rfl <;>
    exact bits_of_word (packWord_toNat 21 (by decide) a b c 0 0) (by
      simp only [Fin.coe_ofNat_eq_mod]; omega)
theorem feMul (a b c : Idx) : Statement (.feMul a b c) := by
  intro f hf
  simp only [rowFixed, List.mem_cons, List.not_mem_nil, or_false] at hf
  rcases hf with rfl | rfl <;>
    exact bits_of_word (packWord_toNat 22 (by decide) a b c 0 0) (by
      simp only [Fin.coe_ofNat_eq_mod]; omega)
theorem feSqr (a b : Idx) : Statement (.feSqr a b) := by
  intro f hf
  simp only [rowFixed, List.mem_cons, List.not_mem_nil, or_false] at hf
  rcases hf with rfl | rfl <;>
    exact bits_of_word (packWord_toNat 23 (by decide) a b 0 0 0) (by
      simp only [Fin.coe_ofNat_eq_mod]; omega)
theorem feMula24 (a b : Idx) : Statement (.feMula24 a b) := by
  intro f hf
  simp only [rowFixed, List.mem_cons, List.not_mem_nil, or_false] at hf
  rcases hf with rfl | rfl <;>
    exact bits_of_word (packWord_toNat 24 (by decide) a b 0 0 0) (by
      simp only [Fin.coe_ofNat_eq_mod]; omega)
theorem feInv (a b : Idx) : Statement (.feInv a b) := by
  intro f hf
  simp only [rowFixed, List.mem_cons, List.not_mem_nil, or_false] at hf
  rcases hf with rfl | rfl <;>
    exact bits_of_word (packWord_toNat 25 (by decide) a b 0 0 0) (by
      simp only [Fin.coe_ofNat_eq_mod]; omega)
theorem feCswap (a b : Idx) : Statement (.feCswap a b) := by
  intro f hf
  simp only [rowFixed, List.mem_cons, List.not_mem_nil, or_false] at hf
  rcases hf with rfl | rfl <;>
    exact bits_of_word (packWord_toNat 26 (by decide) a b 0 0 0) (by
      simp only [Fin.coe_ofNat_eq_mod]; omega)
theorem xLdscalar : Statement .xLdscalar := by unfold Statement; decide
theorem xInit (b : Idx) : Statement (.xInit b) := by
  intro f hf
  simp only [rowFixed, List.mem_cons, List.not_mem_nil, or_false] at hf
  rcases hf with rfl | rfl <;>
    exact bits_of_word (packWord_toNat 33 (by decide) 0 b 0 0 0) (by
      simp only [Fin.coe_ofNat_eq_mod]; omega)
theorem xStep (t : Fin 256) : Statement (.xStep t) := by
  intro f hf
  simp only [rowFixed, List.mem_cons, List.not_mem_nil, or_false] at hf
  rcases hf with rfl
  exact bits_of_word (packWord_toNat 34 (by decide) 0 0 0 0 t) (by
    simp only [Fin.coe_ofNat_eq_mod]; omega)
theorem xFinish (a : Idx) : Statement (.xFinish a) := by
  intro f hf
  simp only [rowFixed, List.mem_cons, List.not_mem_nil, or_false] at hf
  rcases hf with rfl | rfl <;>
    exact bits_of_word (packWord_toNat 35 (by decide) a 0 0 0 0) (by
      simp only [Fin.coe_ofNat_eq_mod]; omega)
theorem x25519 : Statement .x25519 := by unfold Statement; decide
theorem xKeygen : Statement .xKeygen := by unfold Statement; decide
theorem ccInit : Statement .ccInit := by unfold Statement; decide
theorem ccQr (a b c d : Idx) : Statement (.ccQr a b c d) := by
  intro f hf
  simp only [rowFixed, List.mem_cons, List.not_mem_nil, or_false] at hf
  rcases hf with rfl | rfl <;>
    exact bits_of_word (packWord_toNat 49 (by decide) a b c d 0) (by
      simp only [Fin.coe_ofNat_eq_mod]; omega)
theorem ccDround : Statement .ccDround := by unfold Statement; decide
theorem ccLoadx : Statement .ccLoadx := by unfold Statement; decide
theorem ccAddout : Statement .ccAddout := by unfold Statement; decide
theorem ccBlock : Statement .ccBlock := by unfold Statement; decide
theorem ccXor : Statement .ccXor := by unfold Statement; decide
theorem pKey : Statement .pKey := by unfold Statement; decide
theorem pAcc : Statement .pAcc := by unfold Statement; decide
theorem pMul : Statement .pMul := by unfold Statement; decide
theorem pUpdate : Statement .pUpdate := by unfold Statement; decide
theorem pFinal : Statement .pFinal := by unfold Statement; decide
theorem pMac : Statement .pMac := by unfold Statement; decide
theorem aeadEnc : Statement .aeadEnc := by unfold Statement; decide
theorem aeadDec : Statement .aeadDec := by unfold Statement; decide
theorem shaInit : Statement .shaInit := by unfold Statement; decide
theorem shaUpdate : Statement .shaUpdate := by unfold Statement; decide
theorem shaFinal : Statement .shaFinal := by unfold Statement; decide
theorem shaLoadblk : Statement .shaLoadblk := by unfold Statement; decide
theorem shaRound (t : Fin 256) : Statement (.shaRound t) := by
  intro f hf
  simp only [rowFixed, List.mem_cons, List.not_mem_nil, or_false] at hf
  rcases hf with rfl
  exact bits_of_word (packWord_toNat 100 (by decide) 0 0 0 0 t) (by
    simp only [Fin.coe_ofNat_eq_mod]; omega)
theorem shaFold : Statement .shaFold := by unfold Statement; decide
theorem sha256 : Statement .sha256 := by unfold Statement; decide
theorem hmac : Statement .hmac := by unfold Statement; decide
theorem hkdfExtract : Statement .hkdfExtract := by unfold Statement; decide
theorem hkdfExpand : Statement .hkdfExpand := by unfold Statement; decide
theorem hkdf : Statement .hkdf := by unfold Statement; decide

end Sys2Proof.Laws.MatchesTableRow
end

