-- ==== Sys2Proof/Laws/Prime.lean ====
section
/-! SUPPORT. p = 2^255 − 19 is prime (41_field.md R153 rests on it), by a chain of Lucas certificates: each
number with a primitive root and the factors of its predecessor. -/

namespace Sys2Proof.Laws

open Sys2Proof.Machine

/-- b^e mod n by repeated squaring, for e < 2^k. -/
def powMod (n : Nat) : Nat → Nat → Nat → Nat
  | 0, _, _ => 1 % n
  | k + 1, b, e =>
    let h := powMod n k (b * b % n) (e / 2)
    if e % 2 = 1 then b * h % n else h

theorem powMod_eq (n k b e : Nat) (h : e < 2 ^ k) : powMod n k b e = b ^ e % n := by
  induction k generalizing b e with
  | zero =>
    have : e = 0 := by simpa using h
    simp [powMod, this]
  | succ k ih =>
    have hlt : e / 2 < 2 ^ k := by rw [pow_succ] at h; omega
    have hsq : (b * b % n) ^ (e / 2) % n = b ^ (2 * (e / 2)) % n := by
      rw [← Nat.pow_mod, ← pow_two, ← pow_mul]
    simp only [powMod, ih _ _ hlt, hsq]
    split
    · rw [Nat.mul_mod_mod, ← pow_succ', show 2 * (e / 2) + 1 = e by omega]
    · rw [show 2 * (e / 2) = e by omega]

/-- Lucas: `a` has order n − 1 modulo n, told from the prime factors `qs` of n − 1. -/
theorem prime_of_lucas (n k a : Nat) (qs : List Nat) (hn : 1 < n) (hk : n ≤ 2 ^ k)
    (hq : ∀ q ∈ qs, q.Prime) (hprod : qs.prod = n - 1) (h1 : powMod n k a (n - 1) = 1)
    (h2 : ∀ q ∈ qs, powMod n k a ((n - 1) / q) ≠ 1) : n.Prime := by
  have hone : 1 % n = 1 := Nat.mod_eq_of_lt hn
  have key : ∀ e, e < n → ((a : ZMod n) ^ e = 1 ↔ powMod n k a e = 1) := by
    intro e he
    rw [powMod_eq n k a e (by omega), ← Nat.cast_pow, ← Nat.cast_one, ZMod.natCast_eq_natCast_iff',
      hone]
  refine lucas_primality n (a : ZMod n) ((key _ (by omega)).mpr h1) ?_
  intro q hqp hqd
  rw [← hprod] at hqd
  obtain ⟨r, hr, hdvd⟩ := (Nat.Prime.prime hqp).dvd_prod_iff.mp hqd
  rw [(Nat.prime_dvd_prime_iff_eq hqp (hq r hr)).mp hdvd]
  exact fun h => h2 r hr ((key _ (lt_of_le_of_lt (Nat.div_le_self _ _) (by omega))).mp h)

theorem prime_2773320623 : Nat.Prime 2773320623 :=
  prime_of_lucas _ 32 5 [2, 2437, 569003] (by decide) (by decide)
    (by simp only [List.forall_mem_cons]; norm_num) (by decide +kernel) (by decide +kernel)
    (by decide +kernel)

theorem prime_72106336199 : Nat.Prime 72106336199 :=
  prime_of_lucas _ 37 7 [2, 13, 2773320623] (by decide) (by decide)
    (by simp only [List.forall_mem_cons, prime_2773320623]; norm_num) (by decide +kernel)
    (by decide +kernel) (by decide +kernel)

theorem prime_1919519569386763 : Nat.Prime 1919519569386763 :=
  prime_of_lucas _ 51 2 [2, 3, 7, 19, 47, 47, 127, 8574133] (by decide) (by decide)
    (by simp only [List.forall_mem_cons]; norm_num) (by decide +kernel) (by decide +kernel)
    (by decide +kernel)

theorem prime_31757755568855353 : Nat.Prime 31757755568855353 :=
  prime_of_lucas _ 55 10 [2, 2, 2, 3, 31, 107, 223, 4153, 430751] (by decide) (by decide)
    (by simp only [List.forall_mem_cons]; norm_num) (by decide +kernel) (by decide +kernel)
    (by decide +kernel)

theorem prime_factor33 : Nat.Prime 75445702479781427272750846543864801 :=
  prime_of_lucas _ 116 7
    [2, 2, 2, 2, 2, 3, 3, 5, 5, 75707, 72106336199, 1919519569386763] (by decide) (by decide)
    (by simp only [List.forall_mem_cons, prime_72106336199, prime_1919519569386763]; norm_num)
    (by decide +kernel) (by decide +kernel) (by decide +kernel)

theorem prime_factor68 :
    Nat.Prime 74058212732561358302231226437062788676166966415465897661863160754340907 :=
  prime_of_lucas _ 236 2
    [2, 3, 353, 57467, 132049, 1923133, 31757755568855353, 75445702479781427272750846543864801]
    (by decide) (by decide)
    (by simp only [List.forall_mem_cons, prime_31757755568855353, prime_factor33]; norm_num)
    (by decide +kernel) (by decide +kernel) (by decide +kernel)

/-- p is prime (R140). -/
theorem p_prime : Nat.Prime p :=
  prime_of_lucas _ 255 2
    [2, 2, 3, 65147, 74058212732561358302231226437062788676166966415465897661863160754340907]
    (by decide) (by decide)
    (by simp only [List.forall_mem_cons, prime_factor68]; norm_num)
    (by decide +kernel) (by decide +kernel) (by decide +kernel)

end Sys2Proof.Laws
end

