-- ==== Sys2Proof/Laws/Step.lean ====
section
/-! SUPPORT. What one step can do, said once: it is a host access, a reset, or the core's turn. -/

namespace Sys2Proof.Laws

open Sys2Proof.Machine

/-- A host address is ZTCC_BASE plus its port address (R78). -/
@[simp] theorem portAddress_base_add (a : BitVec 32) : portAddress (Config.ztccBase + a) = a := by
  unfold portAddress
  rw [BitVec.add_comm, BitVec.add_sub_cancel]

@[simp] theorem hostAccess_read (s : State) (a : BitVec 32) :
    s.hostAccess (.read (Config.ztccBase + a)) = s.portRead a := by simp [State.hostAccess]

@[simp] theorem hostAccess_write (s : State) (a d : BitVec 32) (strobe : BitVec 4) :
    s.hostAccess (.write (Config.ztccBase + a) d strobe) = s.portWrite a d strobe := by
  simp [State.hostAccess]

/-- A step at a host access. -/
theorem step_host {s : State} {a : PortAccess} {rest : List Turn} (h : s.schedule = .host a :: rest) :
    step s = .next (State.hostAccess { s with schedule := rest } a) := by simp [step, h]

/-- A step at a reset. -/
theorem step_hardReset {s : State} {rest : List Turn} (h : s.schedule = .hardReset :: rest) :
    step s = .next (State.toReset { s with schedule := rest }) := by simp [step, h]

/-- A step at the core's turn, explicit or with the schedule empty. -/
theorem step_coresTurn {s u : State} (h : s.CoresTurn u) : step s = coreTurn u := by
  obtain ⟨hs, rfl⟩ | ⟨rest, hs, rfl⟩ := h <;> simp [step, hs]

/-- The four things a step can do (20_memory.md R80). -/
theorem step_cases {s t : State} (h : step s = .next t) :
    (s.schedule = [] ∧ coreTurn s = .next t) ∨
    (∃ rest, s.schedule = .core :: rest ∧ coreTurn { s with schedule := rest } = .next t) ∨
    (∃ a rest, s.schedule = .host a :: rest ∧ t = State.hostAccess { s with schedule := rest } a) ∨
    (∃ rest, s.schedule = .hardReset :: rest ∧ t = State.toReset { s with schedule := rest }) := by
  unfold step at h
  split at h
  · rename_i hs
    exact .inl ⟨hs, h⟩
  · rename_i rest hs
    exact .inr (.inl ⟨rest, hs, h⟩)
  · rename_i a rest hs
    exact .inr (.inr (.inl ⟨a, rest, hs, by simpa using h.symm⟩))
  · rename_i rest hs
    exact .inr (.inr (.inr ⟨rest, hs, by simpa using h.symm⟩))

/-- What the core's turn can do: nothing while idle, complete a word that is no command with its code,
or run the decoded command (60_exceptions.md R305, R317). -/
theorem coreTurn_cases {s t : State} (h : coreTurn s = .next t) :
    (s.busy = false ∧ t = s) ∨
    (s.busy = true ∧ ∃ e, s.fetch = .error e ∧ t = s.complete (decodeErrCode e)) ∨
    (s.busy = true ∧ ∃ i, s.fetch = .ok i ∧ exec i s = .next t) := by
  unfold coreTurn at h
  split at h
  · rename_i hb
    split at h
    · rename_i i hi
      exact .inr (.inr ⟨hb, i, hi, h⟩)
    · rename_i e he
      exact .inr (.inl ⟨hb, e, he, by simpa using h.symm⟩)
  · rename_i hb
    exact .inl ⟨by simpa using hb, by simpa using h.symm⟩

end Sys2Proof.Laws
end

