-- ==== Sys2Proof/Tests/Slice0.lean ====
section
/-! SUPPORT. Tests: expected values are the worked encodings of 30_encoding.md R111, the vectors of
95_test_vectors.md (named in each docstring), or hand computation from a rule. Witnesses: for each statement
with hypotheses, states and operands that meet them. -/

namespace Sys2Proof.Tests

set_option Elab.async false

open Sys2Proof.Machine

/-! ### Helpers -/

/-- DBUF holding byte strings at offsets. -/
def ram (l : List (Nat × List Byte)) : Memory := l.foldl (fun m q => m.writeBytes q.1 q.2) []

/-- The reset state with DBUF contents, ARG values and sequencing flags. -/
def on (m : Memory) (args : List Nat) (fl : SeqFlags := .clear) : State :=
  { State.reset with
    dbuf := m, flags := fl, args := Vector.ofFn fun i => BitVec.ofNat 32 (args.getD i 0) }

/-- ARG0–ARG7 as a vector. -/
def argv (args : List Nat) : Vector Word 8 := Vector.ofFn fun i => BitVec.ofNat 32 (args.getD i 0)

/-- Every sequencing flag set. -/
def ready : SeqFlags := ⟨true, true, true, true, true, true⟩

/-- The state an outcome holds. -/
def afterOf (s : State) : Host.Outcome State Fault Refusal → State
  | .next t => t
  | .fault _ => s
  | .refused _ => s

/-- The state after a command. -/
def after (i : Instr) (s : State) : State := afterOf s (exec i s)

/-- The state after one event. -/
def afterEvent (s : State) (e : Turn) : State :=
  let u := { s with schedule := [e] }
  afterOf u (step u)

/-- STATUS after a command accepted in a state. -/
def statusOf (s : State) (w : Word) : Nat :=
  (afterEvent (s.accept w) .core).statusWord.toNat

/-- A field state: FE[1], FE[2] as given. -/
def fe12 (a b : Nat) : State :=
  { State.reset with fe := (State.reset.fe.set 1 (feOf a)).set 2 (feOf b) }

theorem exec_after (i : Instr) (s : State) : exec i s = .next (after i s) := by
  obtain ⟨t, h, -⟩ := Laws.exec_completes i s
  rw [after, h]
  rfl

/-! ### WellFormed -/

/-- R103: IMM8 of `sha.round` must be below 64; the check refuses 64 and no other term is ill-formed. -/
theorem test_wellFormed_refuses_round64 :
    ¬(Instr.shaRound 64).WellFormed ∧ ¬(Instr.shaRound 255).WellFormed ∧
      (Instr.shaRound 63).WellFormed ∧ (Instr.xStep 255).WellFormed := by decide

/-! ### Decoding: words written out from R101 and R106 (the words of V3 and R111 among them) -/

theorem test_decode_control :
    ∀ q ∈ [(0x00000000, Instr.nop), (0x00000001, .zeroize), (0x00000002, .memzero),
      (0x00000003, .ctEq)], decodeTableWord 32 q.1 = some q.2 := by decide +kernel

theorem test_decode_field :
    ∀ q ∈ [(0x00000110, Instr.feLoad 1), (0x00003011, .feStore 3), (0x00000412, .feSeti 4),
      (0x00001213, .feMov 2 1), (0x00021314, .feAdd 3 1 2), (0x000EFD15, .feSub 13 15 14),
      (0x00021316, .feMul 3 1 2), (0x00001217, .feSqr 2 1), (0x00008718, .feMula24 7 8),
      (0x00001219, .feInv 2 1), (0x0000431A, .feCswap 3 4)],
      decodeTableWord 32 q.1 = some q.2 := by decide +kernel

theorem test_decode_x25519 :
    ∀ q ∈ [(0x00000020, Instr.xLdscalar), (0x00007021, .xInit 7), (0xFE000022, .xStep 254),
      (0x01000022, .xStep 1), (0x00000523, .xFinish 5), (0x00000024, .x25519), (0x00000025, .xKeygen)],
      decodeTableWord 32 q.1 = some q.2 := by decide +kernel

theorem test_decode_chacha :
    ∀ q ∈ [(0x00000030, Instr.ccInit), (0x00C84031, .ccQr 0 4 8 12), (0x00E94331, .ccQr 3 4 9 14),
      (0x00000032, .ccDround), (0x00000033, .ccLoadx), (0x00000034, .ccAddout), (0x00000035, .ccBlock),
      (0x00000036, .ccXor)], decodeTableWord 32 q.1 = some q.2 := by decide +kernel

theorem test_decode_poly_aead :
    ∀ q ∈ [(0x00000040, Instr.pKey), (0x00000041, .pAcc), (0x00000042, .pMul), (0x00000043, .pUpdate),
      (0x00000044, .pFinal), (0x00000045, .pMac), (0x00000050, .aeadEnc), (0x00000051, .aeadDec)],
      decodeTableWord 32 q.1 = some q.2 := by decide +kernel

theorem test_decode_hash :
    ∀ q ∈ [(0x00000060, Instr.shaInit), (0x00000061, .shaUpdate), (0x00000062, .shaFinal),
      (0x00000063, .shaLoadblk), (0x3F000064, .shaRound 63), (0x00000064, .shaRound 0),
      (0x00000065, .shaFold), (0x00000066, .sha256), (0x00000070, .hmac), (0x00000071, .hkdfExtract),
      (0x00000072, .hkdfExpand), (0x00000073, .hkdf)],
      decodeTableWord 32 q.1 = some q.2 := by decide +kernel

/-- V3: the decode errors, each from reset, with the STATUS they end with. -/
theorem test_decode_errors :
    ∀ q ∈ [(0x00000004#32, 0x102), (0x000000FF#32, 0x102), (0x00321314#32, 0x202), (0x01000000#32, 0x202),
      (0x01C84031#32, 0x202), (0x00005111#32, 0x202), (0x03000122#32, 0x202), (0x40000064#32, 0x202),
      (0x00000064#32, 0x602)], statusOf State.reset q.1 = q.2 := by decide +kernel

/-! ### A step -/

/-- The first step after a command is placed runs it: `fe.seti f4` with ARG0 = 7 (R146). -/
theorem test_step_runs_placed_word :
    (afterOf State.reset (step ((on [] [7]).withFetchWord 32 0x00000412))).fe[4].val = 7 := by
  decide +kernel

/-- The host's write of a command word to CMD, at ZTCC_BASE + 0x10, is its acceptance (R78, R304). -/
theorem test_step_host_write :
    step { State.reset with schedule := [.host (.write (Config.ztccBase + 0x10#32) 0x412#32 0xF#4)] } =
      .next (State.reset.accept 0x412#32) := by
  rw [Laws.step_host rfl, Laws.hostAccess_write]
  rfl

/-- The host's read at ZTCC_BASE is the read of ID (R78, R33). -/
theorem test_step_host_read :
    step { State.reset with schedule := [.host (.read (Config.ztccBase + 0#32))] } =
      .next { State.reset with rdata := 0x5A544343#32 } := by
  rw [Laws.step_host rfl, Laws.hostAccess_read]
  rfl

/-- V4.9: write CMD = 0 with IE = 1, then the core completes: STATUS 1, then 2, and IRQ rises. -/
theorem test_accept_then_complete :
    let s := { State.reset with ie := true }.portWrite 0x10#32 0#32 0xF#4
    s.statusWord = 1#32 ∧ s.irq = false ∧ (afterEvent s .core).statusWord = 2#32 ∧
      (afterEvent s .core).irq = true := by decide +kernel

/-- V4.9: a write to ARG0 and a read of DBUF while BUSY are dropped and set HOSTERR. -/
theorem test_busy_access :
    let s := State.reset.accept 0#32
    let t := s.portWrite 0x20#32 5#32 0xF#4
    t.statusWord = 5#32 ∧ t.args[0] = 0#32 ∧
      (s.portRead 0x1000#32).statusWord = 5#32 := by decide +kernel

/-- V4.9: a partial-strobe write to ARG0 is ignored; a partial-strobe DBUF write stores its lane. -/
theorem test_strobes :
    (State.reset.portWrite 0x20#32 0x1234#32 0x3#4).statusWord = 4#32 ∧
      ((State.reset.portWrite 0x1000#32 0xAABBCCDD#32 0x2#4).portRead 0x1000#32).rdata = 0x0000CC00#32 := by decide +kernel

/-- V4.9: ID, VERSION and DBUF_SIZE as they read. -/
theorem test_identity_reads :
    (State.reset.portRead 0x0#32).rdata = 0x5A544343#32 ∧
      (State.reset.portRead 0x4#32).rdata = 0x00010000#32 ∧
      (State.reset.portRead 0x18#32).rdata = 0x1000#32 := by decide +kernel

/-- V4.9: an unmapped address reads 0. -/
theorem test_unmapped_read : (State.reset.portRead 0x40#32).rdata = 0#32 := by decide +kernel

/-- V4.9: W1C of DONE and HOSTERR; SRST resets. -/
theorem test_w1c_and_srst :
    let s := { (after .nop State.reset) with hostErr := true, ie := true }
    s.statusWord = 6#32 ∧
      (s.portWrite 0xC#32 6#32 0xF#4).statusWord = 0#32 ∧
      s.portWrite 0x8#32 2#32 0xF#4 = State.reset := by decide +kernel

/-! ### Control (V4.1, V1.8) -/

theorem test_nop_only_status : after .nop (on [] [3]) = { on [] [3] with done := true } := by
  decide +kernel

/-- V4.1: `cc.init`, `zeroize`: STATUS 0x00010002, then 0x00000002; then `cc.block` 0x00000602. -/
theorem test_zeroize_clears_flags :
    let s := after .ccInit State.reset
    s.statusWord = 0x00010002#32 ∧ (after .zeroize s).statusWord = 2#32 ∧
      (after .ccBlock (after .zeroize s)).statusWord = 0x602#32 := by decide +kernel

theorem test_memzero_bounds :
    (after .memzero (on [] [4090, 7])).statusWord = 0x402#32 ∧
      (after .memzero (on [] [4089, 7])).statusWord = 2#32 ∧
      (after .memzero (on [] [0xFFFFFFFF, 0])).statusWord = 2#32 := by decide +kernel

theorem test_memzero_zeroes :
    (after .memzero (on (ram [(0x10, [1, 2, 3, 4])]) [0x10, 4])).dbuf = [] := by decide +kernel

theorem test_ctEq_polarity :
    let m := ram [(0, [0, 1, 2]), (8, [0, 1, 3])]
    (after .ctEq (on m [0, 8, 3])).result = true ∧ (after .ctEq (on m [0, 8, 2])).result = false := by
  decide +kernel

/-- V1.8: the difference in the last byte is found; V4.1: no wrap-around of addr + len. -/
theorem test_ctEq_last_byte_and_bounds :
    (after .ctEq (on (ram [(0x1F, [0x80])]) [0, 0x10, 16])).result = true ∧
      (after .ctEq (on [] [0, 0xFFFFFFFF, 2])).statusWord = 0x402#32 := by decide +kernel

/-! ### Field (V4.2, P1) -/

/-- V4.2: LE_32(p) loads as 0; ff × 32 as 18 (bit 255 masked). -/
theorem test_feLoad_reduces :
    (after (.feLoad 1) (on (ram [(0, 0xED :: List.replicate 30 0xFF ++ [0x7F])]) [0])).fe[1].val = 0 ∧
      (after (.feLoad 1) (on (ram [(0, List.replicate 32 0xFF)]) [0])).fe[1].val = 18 := by
  decide +kernel

/-- R145: the store of 0x0201 is 01 02 00 …, little-endian. -/
theorem test_feStore_little_endian :
    (after (.feStore 1) { fe12 0x0201 0 with dbuf := ram [(31, [7])] }).dbuf = [(0, 1), (1, 2)] := by
  decide +kernel

theorem test_feSeti_zext : (after (.feSeti 4) (on [] [0xFFFFFFFF])).fe[4].val = 0xFFFFFFFF := by
  decide +kernel

theorem test_feMov : (after (.feMov 3 1) (fe12 5 6)).fe[3].val = 5 := by decide +kernel

theorem test_feAdd_wraps : (after (.feAdd 3 1 2) (fe12 (p - 1) 1)).fe[3].val = 0 := by decide +kernel

theorem test_feSub_wraps : (after (.feSub 3 1 2) (fe12 0 1)).fe[3].val = p - 1 := by decide +kernel

/-- V4.2: 2^128 · 2^128 = 2^256 = 38 mod p; the destination may be a source. -/
theorem test_feMul_reduces : (after (.feMul 1 1 2) (fe12 (2 ^ 128) (2 ^ 128))).fe[1].val = 38 := by
  decide +kernel

theorem test_feSqr : (after (.feSqr 3 1) (fe12 3 4)).fe[3].val = 9 := by decide +kernel

theorem test_feMula24 : (after (.feMula24 3 1) (fe12 (p - 1) 0)).fe[3].val = p - 121665 := by
  decide +kernel

/-- P1: the inverse of the program's z. -/
theorem test_feInv_program1 :
    (after (.feInv 2 1)
      (fe12 0x201f1e1d1c1b1a191817161514131211100f0e0d0c0b0a090807060504030201 0)).fe[2].val =
        0x4d41ec8fc2731a6517bf6aed208d8b1d07cefe5830588dc64c8b1535a4f5fae5 := by decide +kernel

theorem test_feInv_zero : (after (.feInv 2 1) (fe12 0 5)).fe[2].val = 0 := by decide +kernel

/-- R154: bit 0 of ARG0 decides, the other bits are ignored. -/
theorem test_feCswap_bit0 :
    let s := { fe12 5 6 with args := argv [0xFFFFFFFE] }
    let t := { fe12 5 6 with args := argv [3] }
    (after (.feCswap 1 2) s).fe[1].val = 5 ∧ (after (.feCswap 1 2) t).fe[1].val = 6 ∧
      (after (.feCswap 1 2) t).fe[2].val = 5 := by decide +kernel

/-! ### X25519 (V1.1, V1.2, V2.1, V4.3) -/

theorem test_xLdscalar_clamps :
    (after .xLdscalar (on (ram [(0, List.replicate 32 0xFF)]) [0])).scalar =
        0x7FFFFFFFFFFFFFFFFFFFFFFFFFFFFFFFFFFFFFFFFFFFFFFFFFFFFFFFFFFFFFF8#256 ∧
      (after .xLdscalar (on [] [0])).scalar.toNat = 2 ^ 254 ∧
      (after .xLdscalar (on [] [0])).statusWord = 0x00100002#32 := by decide +kernel

/-- R175 with the source one of the registers it writes: u is read first. -/
theorem test_xInit_reads_first :
    let t := after (.xInit 1) (fe12 9 4)
    t.fe[0].val = 9 ∧ t.fe[1].val = 1 ∧ t.fe[2].val = 0 ∧ t.fe[3].val = 9 ∧ t.fe[4].val = 1 := by
  decide +kernel

/-- V4.3: one step for u = 9 on a scalar with bit 254 set. -/
theorem test_xStep_first :
    let s := { after (.xInit 7) { State.reset with fe := State.reset.fe.set 7 (feOf 9) } with
      scalar := BitVec.ofNat 256 (2 ^ 254), flags := ready }
    let t := after (.xStep 254) s
    t.swap = true ∧ t.fe[1].val = 0x1900 ∧ t.fe[2].val = 0x9660720 ∧ t.fe[3].val = 324 ∧
      t.fe[4].val = 36 := by decide +kernel

/-- R177: 6 · 2^(−1) = 3; SCALAR and both flags are cleared. -/
theorem test_xFinish_divides :
    let s := { fe12 6 2 with scalar := 8#256, flags := ready }
    let t := after (.xFinish 5) s
    t.fe[5].val = 3 ∧ t.scalar = 0#256 ∧ t.flags.xScalarValid = false ∧
      t.flags.xLadderActive = false := by decide +kernel

/-- RFC 7748 §5.2 vector 1 (V2.1), u replaced in place. -/
theorem test_x25519_rfc7748 :
    let m := ram [
      (0x20, beBytes 32 0xa546e36bf0527c9d3b16154b82465edd62144c0ac1fc5a18506a2244ba449ac4),
      (0x00, beBytes 32 0xe6db6867583030db3594c1a424b15f7c726624ec26b3353b10a903a6d0ab1c4c)]
    (after .x25519 (on m [0x20, 0, 0])).dbuf.readBytes 0 32 =
      beBytes 32 0xc3da55379de9c6908e94ea4df28d084f32eccf03491c71f754b4075577a28552 := by
  decide +kernel

/-- V1.2: the zero string as random bytes. -/
theorem test_xKeygen_base_point :
    let t := after .xKeygen (on [] [0, 0x20, 0x40])
    t.dbuf.readBytes 0x20 32 = List.replicate 31 0 ++ [0x40] ∧
      t.dbuf.readBytes 0x40 32 =
        beBytes 32 0x2fe57da347cd62431528daac5fbb290730fff684afc4cfc2ed90995f58cb3b74 := by
  decide +kernel

/-! ### ChaCha20 (V2.2, V2.3, V4.4) -/

/-- The key 00 01 … 1f at 0 and the nonce of V2.3 at 0x20. -/
def ccRam : Memory :=
  ram [(0, (List.range 32).map fun n => BitVec.ofNat 8 n), (0x20, beBytes 12 0x000000090000004a00000000)]

/-- The state after `cc.init` of V2.3 with a counter. -/
def ccReady (c : Nat) (args : List Nat) : State :=
  { after .ccInit (on ccRam [0, 0x20, c]) with args := argv args }

theorem test_ccInit_words :
    (ccReady 1 []).s0 =
      #v[0x61707865#32, 0x3320646e#32, 0x79622d32#32, 0x6b206574#32, 0x03020100#32, 0x07060504#32,
         0x0b0a0908#32, 0x0f0e0d0c#32, 0x13121110#32, 0x17161514#32, 0x1b1a1918#32, 0x1f1e1d1c#32,
         0x00000001#32, 0x09000000#32, 0x4a000000#32, 0x00000000#32] := by decide +kernel

/-- RFC 8439 §2.1.1 (V2.2). -/
theorem test_ccQr_rfc8439 :
    let x := ((State.reset.x.set 0 0x11111111#32).set 1 0x01020304#32).set 2 0x9b8d6f43#32
    let s := { State.reset with x := x.set 3 0x01234567#32, flags := ready }
    let t := after (.ccQr 0 1 2 3) s
    t.x[0] = 0xea2a92f4#32 ∧ t.x[1] = 0xcb1cf8ce#32 ∧ t.x[2] = 0x4581472e#32 ∧ t.x[3] = 0x5881c4bb#32 := by
  decide +kernel

/-- V4.4: aliased indices, `cc.qr 0, 4, 8, 4` after `cc.init`. -/
theorem test_ccQr_aliased :
    let t := after (.ccQr 0 4 8 4) (ccReady 1 [])
    t.x[0] = 0x86718896#32 ∧ t.x[4] = 0xbc43c04b#32 ∧ t.x[8] = 0x19ff2027#32 := by decide +kernel

/-- V4.4: one double round after `cc.init`. -/
theorem test_ccDround :
    let t := after .ccDround (ccReady 1 [])
    t.x[0] = 0xcd52e917#32 ∧ t.x[5] = 0x5c2e187a#32 ∧ t.x[15] = 0xf173888d#32 := by decide +kernel

theorem test_ccLoadx :
    (after .ccLoadx { ccReady 1 [] with x := State.reset.x }).x[4] = 0x03020100#32 := by decide +kernel

/-- V4.4: `cc.addout` after `cc.init`: each word doubled; the counter advances. -/
theorem test_ccAddout :
    let t := after .ccAddout (ccReady 1 [0x100])
    t.dbuf.readBytes 0x100 16 = beBytes 16 0xcaf0e0c2dcc84066645ac4f2e8ca40d6 ∧ t.s0[12] = 2#32 := by
  decide +kernel

/-- RFC 8439 §2.3.2 (V2.3). -/
theorem test_ccBlock_rfc8439 :
    let t := after .ccBlock (ccReady 1 [0x100])
    t.dbuf.readBytes 0x100 64 = beBytes 64
      0x10f1e7e4d13b5915500fdd1fa32071c4c7d1f4c733c068030422aa9ac3d46c4ed2826446079faa0914c2d705d98b02a2b5129cd1de164eb9cbd083e8a2503c4e ∧
      t.x[0] = 0x837778ab#32 ∧ t.s0[12] = 2#32 := by decide +kernel

/-- V1.5: the counter wraps; the block at 0xFFFFFFFF. -/
theorem test_ccBlock_counter_wraps :
    let t := after .ccBlock (ccReady 0xFFFFFFFF [0x100])
    t.s0[12] = 0#32 ∧ t.dbuf.readBytes 0x100 16 = beBytes 16 0xff2941b8d740f6cbb50936bf997ebd52 := by
  decide +kernel

/-- V4.4: 65 bytes of zeros: the first block of V2.3, one byte of the next, the counter by two. -/
theorem test_ccXor_65 :
    let t := after .ccXor (ccReady 1 [0x200, 0x300, 65])
    t.dbuf.readBytes 0x300 16 = beBytes 16 0x10f1e7e4d13b5915500fdd1fa32071c4 ∧
      t.dbuf.readByte 0x340 = 0x0a ∧ t.s0[12] = 3#32 := by decide +kernel

/-- V4.4: an output one byte off its input is E_OVERLAP; the identical region is not. -/
theorem test_ccXor_overlap :
    (after .ccXor (ccReady 1 [0x100, 0x101, 8])).statusWord = 0x10502#32 ∧
      (after .ccXor (ccReady 1 [0x100, 0x100, 8])).statusWord = 0x10002#32 := by decide +kernel

/-! ### Poly1305 (V2.5, V4.5) -/

/-- The key of V2.5 at 0 and its message at 0x40. -/
def polyRam : Memory :=
  ram [(0, beBytes 32 0x85d6be7857556d337f4452fe42d506a80103808afb0db2fd4abff6af4149f51b),
    (0x40, beBytes 34 0x43727970746f6772617068696320466f72756d2052657365617263682047726f7570)]

/-- After `p.key` of V2.5. -/
def polyReady (args : List Nat) : State := { after .pKey (on polyRam [0]) with args := argv args }

theorem test_pKey_clamps :
    (polyReady []).pr = 0x0806d5400e52447c036d555408bed685#128 ∧
      (polyReady []).ps = 0x1bf54941aff6bf4afdb20dfb8a800301#128 ∧
      (polyReady []).statusWord = 0x00020002#32 := by decide +kernel

theorem test_pAcc_block1 :
    (after .pAcc (polyReady [0x40, 16])).ph.val = 0x16f4620636968706172676f7470797243 := by decide +kernel

theorem test_pAcc_length :
    (after .pAcc (polyReady [0x40, 0])).statusWord = 0x20302#32 ∧
      (after .pAcc (polyReady [0x40, 17])).statusWord = 0x20302#32 := by decide +kernel

theorem test_pMul_block1 :
    (after .pMul { polyReady [] with ph := phOf 0x16f4620636968706172676f7470797243 }).ph.val =
      0x2c88c77849d64ae9147ddeb88e69c83fc := by decide +kernel

/-- `p.update` of a 16-byte chunk is the `p.acc`, `p.mul` of V2.5. -/
theorem test_pUpdate_block1 :
    (after .pUpdate (polyReady [0x40, 16])).ph.val = 0x2c88c77849d64ae9147ddeb88e69c83fc ∧
      (after .pUpdate (polyReady [0xFFFFFFFF, 0])).ph.val = 0 := by decide +kernel

/-- V2.5's tag by `p.update` then `p.final`; the key is single-use. -/
theorem test_pFinal_tag :
    let t := after .pFinal { after .pUpdate (polyReady [0x40, 34]) with args := argv [0x80] }
    t.dbuf.readBytes 0x80 16 = beBytes 16 0xa8061dc1305136c6c22b8baf0c0127a9 ∧ t.pr = 0#128 ∧
      (after .pFinal t).statusWord = 0x602#32 := by decide +kernel

theorem test_pMac_rfc8439 :
    (after .pMac (on polyRam [0, 0x40, 34, 0x80])).dbuf.readBytes 0x80 16 =
      beBytes 16 0xa8061dc1305136c6c22b8baf0c0127a9 := by decide +kernel

/-- V4.5: the tag over its message is E_OVERLAP; the tag of the empty message is s. -/
theorem test_pMac_overlap_and_empty :
    (after .pMac (on polyRam [0, 0x40, 34, 0x50])).statusWord = 0x502#32 ∧
      (after .pMac (on polyRam [0, 0x40, 0, 0x80])).dbuf.readBytes 0x80 16 =
        beBytes 16 0x0103808afb0db2fd4abff6af4149f51b := by decide +kernel

/-! ### AEAD (V1.9) -/

/-- Key 01…20 at 0, nonce 01…0c at 0x20, "Hello, ZTunnel!" at 0x40, "hdr" at 0x60. -/
def aeadRam : Memory :=
  ram [(0, (List.range 32).map fun n => BitVec.ofNat 8 (n + 1)),
    (0x20, (List.range 12).map fun n => BitVec.ofNat 8 (n + 1)),
    (0x40, beBytes 15 0x48656c6c6f2c205a54756e6e656c21), (0x60, [0x68, 0x64, 0x72])]

theorem test_aeadEnc_scenario :
    let t := after .aeadEnc (on aeadRam [0, 0x20, 0x60, 3, 0x40, 15, 0x80, 0xA0])
    t.dbuf.readBytes 0x80 15 = beBytes 15 0x8011210037f070c58e5c2ee4aaa0e9 ∧
      t.dbuf.readBytes 0xA0 16 = beBytes 16 0xcebe79ab4a2120338121765ceda77e94 := by decide +kernel

theorem test_aeadEnc_empty :
    (after .aeadEnc (on aeadRam [0, 0x20, 0x60, 0, 0x40, 0, 0x80, 0xA0])).dbuf.readBytes 0xA0 16 =
      beBytes 16 0x923eba6d36b92f973004480f2f5f3917 := by decide +kernel

/-- The ciphertext and tag of V1.9 (empty aad) with a tag byte 0. -/
def decState (b : Byte) : State :=
  on (((aeadRam.writeBytes 0x80 (beBytes 15 0x8011210037f070c58e5c2ee4aaa0e9)).writeBytes 0xA0
    (beBytes 16 0x7555dc42e0f9cc5f37c8f9849572366a)).writeByte 0xA0 b)
    [0, 0x20, 0x60, 0, 0x80, 15, 0xC0, 0xA0]

theorem test_aeadDec_accepts :
    let t := after .aeadDec (decState 0x75)
    t.dbuf.readBytes 0xC0 15 = beBytes 15 0x48656c6c6f2c205a54756e6e656c21 ∧ t.result = false ∧
      t.statusWord = 2#32 := by decide +kernel

theorem test_aeadDec_rejects :
    let t := after .aeadDec (decState 0x74)
    t.dbuf = (decState 0x74).dbuf ∧ t.result = true ∧ t.statusWord = 0x702#32 := by decide +kernel

/-! ### SHA-256 (V2.7, V4.7, P6) -/

/-- The padded "abc" block at 0 and "abc" at 0x100. -/
def shaRam : Memory := ram [(0, [0x61, 0x62, 0x63, 0x80]), (0x3F, [0x18]), (0x100, [0x61, 0x62, 0x63])]

/-- A started context. -/
def shaReady (args : List Nat) : State := { after .shaInit (on shaRam []) with args := argv args }

theorem test_shaInit_H0 :
    (shaReady []).sh[0] = 0x6a09e667#32 ∧ (shaReady []).statusWord = 0x00040002#32 := by decide +kernel

theorem test_shaUpdate_buffers :
    let t := after .shaUpdate (shaReady [0x100, 3])
    t.pb = [0x61, 0x62, 0x63] ∧ t.blen = 24#64 ∧ t.sh = (shaReady []).sh := by decide +kernel

theorem test_shaUpdate_sequence : (after .shaUpdate State.reset).statusWord = 0x602#32 := by
  decide +kernel

theorem test_shaFinal_abc :
    let t := after .shaFinal { after .shaUpdate (shaReady [0x100, 3]) with args := argv [0x140] }
    t.dbuf.readBytes 0x140 32 =
      beBytes 32 0xba7816bf8f01cfea414140de5dae2223b00361a396177a9cb410ff61f20015ad ∧
      t.statusWord = 2#32 ∧ t.pb = [] := by decide +kernel

theorem test_shaLoadblk_schedule :
    let t := after .shaLoadblk (shaReady [0])
    t.w[0] = 0x61626380#32 ∧ t.w[15] = 0x18#32 ∧ t.w[17] = 0x000f0000#32 ∧ t.w[63] = 0x12b1edeb#32 := by
  decide +kernel

theorem test_shaRound_0 :
    (after (.shaRound 0) (after .shaLoadblk (shaReady [0]))).wv =
      #v[0x5d6aebcd#32, 0x6a09e667#32, 0xbb67ae85#32, 0x3c6ef372#32, 0xfa2a4622#32, 0x510e527f#32,
         0x9b05688c#32, 0x1f83d9ab#32] := by decide +kernel

/-- V4.7: H0 plus the working variables after round 63 is the digest's words. -/
theorem test_shaFold_abc :
    let t := after .shaFold { shaReady [] with
      wv := #v[0x506e3058#32, 0xd39a2165#32, 0x04d24d6c#32, 0xb85e2ce9#32, 0x5ef50f24#32, 0xfb121210#32,
               0x948d25b6#32, 0x961f4894#32] }
    t.sh[0] = 0xba7816bf#32 ∧ t.sh[7] = 0xf20015ad#32 := by decide +kernel

theorem test_sha256_empty :
    (after .sha256 (on [] [0, 0, 0])).dbuf.readBytes 0 32 =
      beBytes 32 0xe3b0c44298fc1c149afbf4c8996fb92427ae41e4649b934ca495991b7852b855 := by decide +kernel

/-- V4.7: 56 bytes take two blocks of padding. -/
theorem test_sha256_56 :
    sha256 (List.replicate 56 0x61) =
      beBytes 32 0xb35439a4ac6f0948b6d6f9e3c6af0f5f590ce20f1bde7090ef7970686ec6738a := by decide +kernel

/-! ### HMAC and HKDF (V2.7, V4.8) -/

theorem test_hmac_overlap : (after .hmac (on [] [0, 4, 0, 0, 2])).statusWord = 0x502#32 := by
  decide +kernel

/-- RFC 5869 A.1: IKM at 0, salt at 0x20, info at 0x40. -/
def hkdfRam : Memory :=
  ram [(0, List.replicate 22 0x0B), (0x20, (List.range 13).map fun n => BitVec.ofNat 8 n),
    (0x40, (List.range 10).map fun n => BitVec.ofNat 8 (n + 0xF0))]

/-- Its PRK. -/
def prkA1 : List Byte := beBytes 32 0x077709362c2e32df0ddc3f0dc47bba6390b6c73bb50f9c3122ec844ad7c2b3e5

theorem test_hkdfExtract_rfc5869 :
    let t := after .hkdfExtract (on hkdfRam [0x20, 13, 0, 22])
    t.prk.toList = prkA1 ∧ t.statusWord = 0x00080002#32 ∧ t.dbuf = hkdfRam := by decide +kernel

/-- RFC 5869 A.1 (V2.7), the first 32 bytes of its OKM. -/
theorem test_hkdfExpand_rfc5869 :
    let t := after .hkdfExpand { on hkdfRam [0x40, 10, 0x100, 32] ready with prk := toReg32 prkA1 }
    t.dbuf.readBytes 0x100 32 =
      beBytes 32 0x3cb25f25faacd57a90434f64d0362f2a2d2d0a90cf1a5a4c5db02d56ecc4c5bf ∧
      t.prk = State.reset.prk ∧ t.flags.prkValid = false := by decide +kernel

/-- V4.8: E_LENGTH is checked before E_SEQUENCE; L = 0 consumes the PRK. -/
theorem test_hkdfExpand_length :
    (after .hkdfExpand (on [] [0, 0, 0, 9000])).statusWord = 0x302#32 ∧
      (after .hkdfExpand (on [] [0, 0, 0, 0] ready)).flags.prkValid = false := by decide +kernel

theorem test_hkdf_overlap_and_length :
    (after .hkdf (on hkdfRam [0, 22, 0, 0, 0, 0, 0x10, 42])).statusWord = 0x502#32 ∧
      (after .hkdf (on hkdfRam [0, 22, 0, 0, 0, 0, 0x140, 8161])).statusWord = 0x302#32 := by
  decide +kernel

/-! ### Witnesses: concrete states and operands that meet the hypotheses of each statement

The name of a witness is that of its statement; where a statement has clauses, each clause has one, at a
boundary of its range. -/

theorem witness_DecodeInvertsEncode :
    (Instr.shaRound 63).WellFormed ∧ (Instr.ccQr 15 0 15 0).WellFormed ∧
      decode 0x3F000064#32 = .ok (.shaRound 63) := ⟨rfl, rfl, rfl⟩

theorem witness_IllegalWords_opcode :
    ∀ op ∈ [0x04, 0x0F, 0x1B, 0x1F, 0x26, 0x2F, 0x37, 0x3F, 0x46, 0x4F, 0x52, 0x5F, 0x67, 0x6F, 0x74, 0xFF],
      let s := State.reset.accept (BitVec.ofNat 32 op)
      s.CoresTurn s ∧ s.busy = true ∧ ReservedOp (s.cmd.toNat % 256) := by
  intro op h
  refine ⟨.inl ⟨rfl, rfl⟩, rfl, ?_⟩
  revert op
  decide +kernel

/-- The core's turn as an explicit event. -/
theorem witness_CoresTurn_explicit :
    let u := State.reset.accept 0x04#32
    let s := { u with schedule := [.core] }
    s.CoresTurn u ∧ s.busy = true ∧ ReservedOp (s.cmd.toNat % 256) :=
  ⟨.inr ⟨[], rfl, rfl⟩, rfl, by decide⟩

/-- `nop` with IMM8 = 1 is the word of no command. -/
theorem witness_IllegalWords_field :
    let s := State.reset.accept 0x01000000#32
    s.CoresTurn s ∧ s.busy = true ∧ ¬ReservedOp (s.cmd.toNat % 256) ∧
      ∀ i : Instr, i.WellFormed → encode i ≠ s.cmd := by
  refine ⟨.inl ⟨rfl, rfl⟩, rfl, by decide, ?_⟩
  intro i _ h
  have h' := congrArg BitVec.toNat h
  cases i <;>
    (simp only [encode] at h'
     rw [Laws.packWord_toNat _ (by decide)] at h'
     simp [State.accept] at h'
     try omega)

theorem witness_StepRunsDecodedCommand :
    let s := State.reset.accept 0x00021316#32
    s.busy = true ∧ decode s.cmd = .ok (.feMul 3 1 2) ∧ s.schedule = [] ∧
      { s with schedule := [.core, .core] }.schedule = .core :: [.core] := ⟨rfl, rfl, rfl, rfl⟩

theorem witness_HostAccessesAndIdleTurns :
    let r := { State.reset with schedule := [.host (.read (Config.ztccBase + 0x1FFF#32))] }
    let w := { State.reset with schedule := [.host (.write (Config.ztccBase + 0#32) 1#32 0#4), .core] }
    let c := { State.reset with schedule := [.core] }
    r.schedule = .host (.read (Config.ztccBase + 0x1FFF#32)) :: [] ∧
      w.schedule = .host (.write (Config.ztccBase + 0#32) 1#32 0#4) :: [.core] ∧
      c.CoresTurn State.reset ∧ c.busy = false ∧ State.reset.CoresTurn State.reset :=
  ⟨rfl, rfl, .inr ⟨[], rfl, rfl⟩, rfl, .inl ⟨rfl, rfl⟩⟩

theorem witness_CmdWriteAccepts :
    let s := { State.reset with schedule := [.host (.write (Config.ztccBase + 0x13#32) 0#32 0xF#4)] }
    let u := { State.reset with
      busy := true, schedule := [.host (.write (Config.ztccBase + 0x10#32) 0#32 0x7#4)] }
    (0x10#32).toNat / 4 = 4 ∧ (0x13#32).toNat / 4 = 4 ∧ s.busy = false ∧
      s.schedule = .host (.write (Config.ztccBase + 0x13#32) 0#32 0xF#4) :: [] ∧
      u.busy = true ∧ 0x7#4 ≠ 0xF#4 ∧
      u.schedule = .host (.write (Config.ztccBase + 0x10#32) 0#32 0x7#4) :: [] :=
  ⟨rfl, rfl, rfl, rfl, rfl, by decide, rfl⟩

theorem witness_EveryAcceptedCommandCompletes :
    let u := State.reset.accept 0xFFFFFFFF#32
    let s := { u with schedule := [.core] }
    u.busy = true ∧ u.CoresTurn u ∧ s.busy = true ∧ s.CoresTurn u :=
  ⟨rfl, .inl ⟨rfl, rfl⟩, rfl, .inr ⟨[], rfl, rfl⟩⟩

theorem witness_ResetPutsEveryState :
    let s := { State.reset with
      schedule := [.host (.write (Config.ztccBase + 0xB#32) 0xFFFFFFFF#32 0xF#4)] }
    { State.reset with schedule := [.hardReset] }.schedule = .hardReset :: [] ∧
      (0x8#32).toNat / 4 = 2 ∧ (0xB#32).toNat / 4 = 2 ∧ (0xFFFFFFFF#32).getLsbD 1 = true ∧
      s.schedule = .host (.write (Config.ztccBase + 0xB#32) 0xFFFFFFFF#32 0xF#4) :: [] :=
    ⟨rfl, rfl, rfl, rfl, rfl⟩

theorem reset_legal_memory_sha : Config.LegalDbufSize State.reset.dbufSize ∧ State.reset.MemoryInv ∧
    State.reset.ShaBufferInv := by decide

/-- A state that meets the invariant while a command runs. -/
theorem witness_StepKeepsInvariant :
    let s := State.reset.accept 0x00000030#32
    s.Inv ∧ step s = .next (after .ccInit s) := by
  refine ⟨⟨by decide, by decide, by decide, ⟨by decide, by decide, by decide⟩, ?_, ?_⟩, ?_⟩
  · unfold State.StatusInv
    decide
  · unfold State.HygieneInv
    decide
  · exact exec_after .ccInit (State.reset.accept 0x00000030#32)

theorem witness_ErrorsChangeOnlyStatus :
    exec .memzero (on [] [4090, 7]) = .next (after .memzero (on [] [4090, 7])) ∧
      (after .memzero (on [] [4090, 7])).errCode = .bounds ∧
      exec .aeadDec (decState 0x74) = .next (after .aeadDec (decState 0x74)) ∧
      (after .aeadDec (decState 0x74)).errCode = .auth :=
  ⟨exec_after _ _, by decide +kernel, exec_after _ _, by decide +kernel⟩

theorem witness_FieldAndLength :
    64 ≤ (64 : Fin 256).val ∧ 64 ≤ (255 : Fin 256).val ∧
      (on [] [0, 0]).arg 1 = 0 ∧ 16 < (on [] [0, 17]).arg 1 ∧ 8160 < (on [] [0, 0, 0, 8161]).arg 3 ∧
      8160 < (on [] [0, 0, 0, 0, 0, 0, 0, 8161]).arg 7 := by decide +kernel

/-- The table has one row per command. -/
theorem test_opcodeMapRegions_rows : (opcodeMapRegions State.reset 0 0 0 0 0).length = 47 := rfl

/-- An output region, and an input region of a command with a length limit. -/
theorem witness_OutOfBounds :
    let s := on [] [4090, 7]
    (Instr.memzero, [], [⟨4090, 7⟩]) ∈ opcodeMapRegions s 0 0 0 0 0 ∧
      (Instr.pAcc, [⟨4090, 7⟩], []) ∈ opcodeMapRegions s 0 0 0 0 0 ∧
      1 ≤ s.arg 1 ∧ s.arg 1 ≤ 16 ∧ (⟨4090, 7⟩ : Region) ∈ [] ++ [(⟨4090, 7⟩ : Region)] ∧
      0 < 7 ∧ s.dbufSize < 4090 + 7 := by decide +kernel

/-- One byte shared: the first disjunct; then `x.keygen`'s outputs, its public key in place of the random
bytes, `x25519` in place of the scalar, `aead.enc`'s two outputs, an AEAD output identical to the key,
`aead.dec`'s to the tag, and `p.mac`'s tag identical to a 16-byte message. -/
theorem witness_OverlapIsRefused :
    (∀ q ∈ [(Instr.ccXor, on [] [0, 7, 8]), (.xKeygen, on [] [0, 0x40, 0x5F]),
        (.xKeygen, on [] [0x40, 0, 0x40]), (.x25519, on [] [0x40, 0, 0x40]),
        (.aeadEnc, on [] [0, 0x20, 0, 0, 0x40, 15, 0x80, 0x8E]),
        (.aeadDec, on [] [0x80, 0x20, 0, 0, 0x40, 32, 0x80, 0xC0]),
        (.aeadDec, on [] [0, 0x20, 0, 0, 0x40, 16, 0x80, 0x80]),
        (.pMac, on [] [0, 0x40, 16, 0x40])],
      (commandChecks q.1 q.2).fieldOk = true ∧ (commandChecks q.1 q.2).lengthOk = true ∧
      ∀ r ∈ (commandChecks q.1 q.2).ins ++ (commandChecks q.1 q.2).outs,
        Fits r.addr r.len q.2.dbufSize) ∧
    ¬Apart 0 8 7 8 ∧ ¬Apart 0x40 32 0x5F 32 ∧ ¬Apart 0x80 15 0x8E 16 := by decide +kernel

/-- An AEAD text output identical to a 12-byte nonce and to the aad, of `aead.enc` and of `aead.dec`. -/
theorem witness_Overlap_nonce_and_aad :
    ∀ i ∈ [Instr.aeadEnc, .aeadDec],
      ∀ s ∈ [on [] [0, 0x40, 0, 0, 0x80, 12, 0x40, 0x100], on [] [0, 0x40, 0x80, 20, 0xC0, 20, 0x80, 0x100]],
        (commandChecks i s).fieldOk = true ∧ (commandChecks i s).lengthOk = true ∧
        (∀ r ∈ (commandChecks i s).ins ++ (commandChecks i s).outs, Fits r.addr r.len s.dbufSize) ∧
        0 < s.arg 5 ∧ ((s.arg 5 = 12 ∧ s.arg 1 = s.arg 6) ∨ (s.arg 3 = s.arg 5 ∧ s.arg 2 = s.arg 6)) := by
  decide +kernel

/-- `aead.enc`'s tag identical to a 16-byte aad, and to a 16-byte plaintext. -/
theorem witness_Overlap_tag :
    ∀ s ∈ [on [] [0, 0x40, 0x80, 16, 0xC0, 20, 0x100, 0x80], on [] [0, 0x40, 0, 0, 0xC0, 16, 0x100, 0xC0]],
      (commandChecks .aeadEnc s).fieldOk = true ∧ (commandChecks .aeadEnc s).lengthOk = true ∧
      (∀ r ∈ (commandChecks .aeadEnc s).ins ++ (commandChecks .aeadEnc s).outs,
        Fits r.addr r.len s.dbufSize) ∧
      ((s.arg 3 = 16 ∧ s.arg 2 = s.arg 7) ∨ (s.arg 5 = 16 ∧ s.arg 4 = s.arg 7)) := by decide +kernel

/-- R73, R232: they are refused with E_OVERLAP. -/
theorem test_aeadEnc_tag_on_input :
    (after .aeadEnc (on [] [0, 0x40, 0x80, 16, 0xC0, 20, 0x100, 0x80])).statusWord = 0x502#32 ∧
      (after .aeadEnc (on [] [0, 0x40, 0, 0, 0xC0, 16, 0x100, 0xC0])).statusWord = 0x502#32 := by
  decide +kernel

/-- Every flag 0 and every earlier check passing, for all the commands of the statement at once. -/
theorem witness_MissingFlag :
    let s := on [] [0, 16, 16, 16]
    s.flags = SeqFlags.clear ∧ s.arg 0 + 64 ≤ s.dbufSize ∧ 1 ≤ s.arg 1 ∧ s.arg 1 ≤ 16 ∧
      s.arg 3 ≤ 8160 ∧ Fits (s.arg 0) (s.arg 1) s.dbufSize ∧ Fits (s.arg 0) (s.arg 2) s.dbufSize ∧
      Fits (s.arg 1) (s.arg 2) s.dbufSize ∧ Fits (s.arg 2) (s.arg 3) s.dbufSize ∧
      Apart (s.arg 0) (s.arg 2) (s.arg 1) (s.arg 2) ∧ Apart (s.arg 0) (s.arg 1) (s.arg 2) (s.arg 3) ∧
      (0 : Fin 256).val < 64 ∧ (63 : Fin 256).val < 64 := by decide +kernel

theorem witness_OnlyTheNamedCommands :
    (after (.feSeti 1) (on [] [7])).fe ≠ (on [] [7]).fe ∧
      (after .ccInit (on [] [])).x ≠ (on [] []).x ∧ (after .ccInit (on [] [])).s0 ≠ (on [] []).s0 ∧
      (after .ctEq (on (ram [(0, [1])]) [0, 8, 1])).result ≠ (on (ram [(0, [1])]) [0, 8, 1]).result ∧
      (after .zeroize { State.reset with prk := toReg32 prkA1 }).prk ≠ toReg32 prkA1 := by decide +kernel

theorem witness_SequencingFlags :
    (after .ccInit State.reset).flags.ccKeyed = true ∧ (after .pKey State.reset).flags.pKeyed = true ∧
      (after .shaInit State.reset).flags.shaActive = true ∧
      (after .xLdscalar State.reset).flags.xScalarValid = true ∧
      (after (.xInit 7) State.reset).flags.xLadderActive = true ∧
      (after .zeroize (on [] [] ready)).flags = SeqFlags.clear ∧
      (after .pFinal (on [] [] ready)).flags.pKeyed = false := by decide +kernel

theorem witness_OneShotsTouchNoStageState :
    let s := on polyRam [0, 0x40, 34, 0x80]
    let u := { s with ph := phOf 5, flags := ready, swap := true }
    u.args = s.args ∧ u.dbuf = s.dbuf ∧ u.dbufSize = s.dbufSize ∧ u.result = s.result ∧
      exec .pMac s = .next (after .pMac s) := ⟨rfl, rfl, rfl, rfl, exec_after _ _⟩

theorem witness_BytesOutside :
    let s := on polyRam [0, 0x40, 34, 0x80]
    s.dbuf.wf ∧ exec .pMac s = .next (after .pMac s) ∧
      (∀ r ∈ (commandChecks .pMac s).outs, 0x7F < r.addr ∨ r.addr + r.len ≤ 0x7F) ∧
      (∀ r ∈ (commandChecks .pMac s).outs, 0x90 < r.addr ∨ r.addr + r.len ≤ 0x90) ∧
      (commandChecks .ctEq s).outs = [] :=
  ⟨by decide +kernel, exec_after _ _, by decide +kernel, by decide +kernel, rfl⟩

theorem witness_PrkReachesNothingButExpand :
    Instr.hkdf ≠ .hkdfExpand ∧ exec .hkdf State.reset = .next (after .hkdf State.reset) :=
  ⟨by decide, exec_after _ _⟩

theorem witness_PortReads :
    let s := State.reset
    let u := { State.reset with prk := toReg32 prkA1, s0 := State.reset.s0.set 4 1#32 }
    u = { s with fe := u.fe, scalar := u.scalar, swap := u.swap, s0 := u.s0, x := u.x, pr := u.pr,
                 ps := u.ps, ph := u.ph, sh := u.sh, blen := u.blen, pb := u.pb, w := u.w,
                 wv := u.wv, prk := u.prk } ∧ u.s0[12] = s.s0[12] := ⟨rfl, by decide +kernel⟩

/-- Every register address, with the ignored low bits 0 and 3. -/
theorem witness_RegisterReadsAndWrites :
    ∀ k : Fin 16, ∀ l ∈ [0, 3], (BitVec.ofNat 32 (4 * k.val + l)).toNat < 0x40 ∧
      (BitVec.ofNat 32 (4 * k.val + l)).toNat / 4 = k.val := by decide +kernel

/-- Each error code has its number (R300). -/
theorem witness_RegisterReads_codes :
    ∀ e : ErrCode, (e, e.toNat) ∈ [(ErrCode.ok, 0x00), (.opcode, 0x01), (.field, 0x02), (.length, 0x03),
      (.bounds, 0x04), (.overlap, 0x05), (.sequence, 0x06), (.auth, 0x07)] := by
  intro e
  cases e <;> decide

theorem witness_RegisterWrites_data :
    (1#32).getLsbD 1 = false ∧ State.reset.busy = false ∧ (7 : Fin 8).val + 8 = 0x3F / 4 := by decide

theorem witness_BusyAccesses :
    (State.reset.accept 0#32).busy = true ∧ (0x13#32).toNat / 4 = 4 ∧ 8 ≤ (0x20#32).toNat / 4 ∧
      (0x3F#32).toNat / 4 ≤ 15 ∧ 0x1000 ≤ (0x1000#32).toNat ∧
      (0x1FFF#32).toNat / 4 * 4 < 0x1000 + (State.reset.accept 0#32).dbufSize := by decide

theorem witness_IgnoredAccesses :
    (0x1F#32).toNat / 4 ∈ [0, 1, 5, 6, 7] ∧ (0x3F#32).toNat < 0x40 ∧ (0#4) ≠ 0xF#4 ∧ (0x7#4) ≠ 0xF#4 ∧ 0x40 ≤ (0x40#32).toNat ∧
      (0xFFF#32).toNat < 0x1000 ∧ 0x1000 ≤ (0x2000#32).toNat ∧
      0x1000 + State.reset.dbufSize ≤ (0x2000#32).toNat / 4 * 4 ∧
      0x1000 + State.reset.dbufSize ≤ (0xFFFFFFFF#32).toNat / 4 * 4 := by decide

theorem witness_DbufWords :
    State.reset.dbuf.wf ∧ State.reset.busy = false ∧ (0x1000#32).toNat / 4 * 4 = 0x1000 + 0 ∧
      (0x1FFF#32).toNat / 4 * 4 = 0x1000 + 0xFFC ∧ 0xFFC < State.reset.dbufSize := by decide

theorem witness_IrqIsIeAndDone :
    exec .nop State.reset = .next (after .nop State.reset) ∧ (2#32).getLsbD 1 = true ∧
      (0xFFFFFFFC#32).getLsbD 1 = false ∧ (0xFFFFFFFC#32).getLsbD 0 = false :=
  ⟨exec_after _ _, by decide, by decide, by decide⟩

/-- Regions of 0, of one byte at the end, and of all of DBUF. -/
theorem witness_MemzeroAndCtEq :
    (∀ s ∈ [on [] [0xFFFFFFFF, 0], on [] [4095, 1], on [] [0, 4096]],
      s.dbuf.wf ∧ Fits (s.arg 0) (s.arg 1) s.dbufSize) ∧
    ∀ s ∈ [on [] [0xFFFFFFFF, 0, 0], on [] [4095, 0, 1]],
      Fits (s.arg 0) (s.arg 2) s.dbufSize ∧ Fits (s.arg 1) (s.arg 2) s.dbufSize := by decide +kernel

theorem witness_FieldLoadAndStore :
    let s := on aeadRam [4064]
    s.arg 0 + 32 ≤ s.dbufSize ∧ s.dbuf.wf ∧ (argv [0])[0].toNat + 32 ≤ s.dbufSize ∧
      (argv [4064])[0].toNat + 32 ≤ s.dbufSize ∧ leNat (s.dbuf.readBytes 0 32) < p := by decide +kernel

theorem witness_FieldCommands :
    Instr.feSub 1 1 1 = .feSub 1 1 1 ∧
      ((0 : Nat) : Int) = (((fe12 5 0).fe[1].val : Int) - ((fe12 5 0).fe[1].val : Int)) % (p : Int) ∧
      (on [] [2]).arg 0 % 2 = 0 ∧ (on [] [3]).arg 0 % 2 = 1 ∧ (2 : Idx) ≠ 1 := by decide +kernel

theorem witness_FeInv : (fe12 2 0).fe[1].val ≠ 0 := by decide +kernel

theorem witness_LdscalarAndInit : (on [] [4064]).arg 0 + 32 ≤ (on [] [4064]).dbufSize := by decide +kernel

theorem witness_LadderStep :
    (on [] [] ready).flags.xScalarValid = true ∧ (on [] [] ready).flags.xLadderActive = true := ⟨rfl, rfl⟩

theorem witness_Finish : (on [] [] ready).flags.xLadderActive = true ∧ (1 : Idx) ≠ 5 := by decide

theorem witness_ScalarMultiplication :
    let s := on [] [0, 0x20, 0x20]
    let u := on [] [0, 0, 4064]
    s.dbuf.wf ∧ s.arg 0 + 32 ≤ s.dbufSize ∧ s.arg 2 + 32 ≤ s.dbufSize ∧
      Apart (s.arg 0) 32 (s.arg 2) 32 ∧ s.arg 1 = s.arg 2 ∧
      u.arg 2 + 32 ≤ u.dbufSize ∧ u.arg 0 = u.arg 1 ∧ Apart (u.arg 0) 32 (u.arg 2) 32 ∧
      Apart (u.arg 1) 32 (u.arg 2) 32 := by decide +kernel

theorem witness_StagedLadder :
    5 ≤ (7 : Idx).val ∧ State.reset.dbuf.wf ∧ (argv [0])[0].toNat + 32 ≤ State.reset.dbufSize ∧
      (argv [0x20])[0].toNat + 32 ≤ State.reset.dbufSize ∧
      (argv [4064])[0].toNat + 32 ≤ State.reset.dbufSize := by decide +kernel

theorem witness_CcInit :
    (on ccRam [4064, 4084]).arg 0 + 32 ≤ 4096 ∧ (on ccRam [4064, 4084]).arg 1 + 12 ≤ 4096 := by
  decide +kernel

/-- For the statements on `cc.qr`, `cc.dround`, `cc.loadx`, `cc.addout`, `cc.block`. -/
theorem witness_ChaChaStage :
    let s := on ccRam [4032] ready
    s.flags.ccKeyed = true ∧ s.dbuf.wf ∧ s.arg 0 + 64 ≤ s.dbufSize := by decide +kernel

/-- Apart, in place, and len = 0. -/
theorem witness_XorWithTheKeystream :
    ∀ s ∈ [on ccRam [0, 65, 65] ready, on ccRam [0x100, 0x100, 3840] ready,
        on ccRam [0xFFFFFFFF, 0, 0] ready],
      s.flags.ccKeyed = true ∧ s.dbuf.wf ∧ Fits (s.arg 0) (s.arg 2) s.dbufSize ∧
      Fits (s.arg 1) (s.arg 2) s.dbufSize ∧
      (s.arg 0 = s.arg 1 ∨ Apart (s.arg 0) (s.arg 2) (s.arg 1) (s.arg 2)) := by decide +kernel

theorem witness_StreamIsAnInvolution :
    let s := on ccRam []
    let k := argv [0, 0x20, 0xFFFFFFFF]
    let a := argv [0x100, 0x200, 100]
    let b := argv [0x200, 0x200, 100]
    s.dbuf.wf ∧ k[0].toNat + 32 ≤ s.dbufSize ∧ k[1].toNat + 12 ≤ s.dbufSize ∧ b[2] = a[2] ∧
      b[0] = a[1] ∧ Fits a[0].toNat a[2].toNat s.dbufSize ∧ Fits a[1].toNat a[2].toNat s.dbufSize ∧
      Fits b[1].toNat a[2].toNat s.dbufSize ∧ Apart a[0].toNat a[2].toNat a[1].toNat a[2].toNat ∧
      a[1] = b[1] ∧ Apart k[0].toNat 32 a[1].toNat a[2].toNat ∧
      Apart k[1].toNat 12 a[1].toNat a[2].toNat := by decide +kernel

/-- `p.acc` of 1 and of 16 bytes at the end of DBUF; `p.update` of nothing and of all of DBUF. -/
theorem witness_PolyStage :
    ∀ q ∈ [(4095, 1), (4080, 16)], let s := on polyRam [q.1, q.2] ready
      s.flags.pKeyed = true ∧ 1 ≤ s.arg 1 ∧ s.arg 1 ≤ 16 ∧ s.arg 0 + s.arg 1 ≤ s.dbufSize ∧
        (on polyRam [4064]).arg 0 + 32 ≤ s.dbufSize ∧
        Fits ((on [] [0, 4096]).arg 0) ((on [] [0, 4096]).arg 1) s.dbufSize ∧
        Fits ((on [] [0xFFFFFFFF, 0]).arg 0) ((on [] [0xFFFFFFFF, 0]).arg 1) s.dbufSize := by
  decide +kernel

theorem witness_PolyFinal :
    let s := on polyRam [4080] ready
    s.flags.pKeyed = true ∧ s.dbuf.wf ∧ s.arg 0 + 16 ≤ s.dbufSize := by decide +kernel

theorem witness_StreamedPoly :
    let s := on polyRam [0, 0x40, 34, 0x80]
    let k := argv [0]
    let a := argv [0x40, 16]
    let b := argv [0x50, 18]
    let q := argv [0x80]
    s.dbuf.wf ∧ Fits s.args[1].toNat s.args[2].toNat s.dbufSize ∧ s.args[0].toNat + 32 ≤ s.dbufSize ∧
      s.args[3].toNat + 16 ≤ s.dbufSize ∧ Apart s.args[0].toNat 32 s.args[3].toNat 16 ∧
      Apart s.args[1].toNat s.args[2].toNat s.args[3].toNat 16 ∧ k[0] = s.args[0] ∧
      a[0] = s.args[1] ∧ a[1].toNat % 16 = 0 ∧ a[0].toNat + a[1].toNat = b[0].toNat ∧
      a[1].toNat + b[1].toNat = s.args[2].toNat ∧ q[0] = s.args[3] := by decide +kernel

/-- Apart; and in place at the end of DBUF, with an empty aad. -/
theorem witness_AeadEnc :
    ∀ s ∈ [on aeadRam [0, 0x20, 0x60, 3, 0x40, 15, 0x80, 0xA0],
        on aeadRam [0, 0x20, 0xFFFFFFFF, 0, 0x40, 15, 0x40, 4080]],
      s.dbuf.wf ∧ s.arg 0 + 32 ≤ s.dbufSize ∧ s.arg 1 + 12 ≤ s.dbufSize ∧
      Fits (s.arg 2) (s.arg 3) s.dbufSize ∧ Fits (s.arg 4) (s.arg 5) s.dbufSize ∧
      Fits (s.arg 6) (s.arg 5) s.dbufSize ∧ s.arg 7 + 16 ≤ s.dbufSize ∧
      Apart (s.arg 6) (s.arg 5) (s.arg 7) 16 ∧
      Apart (s.arg 0) 32 (s.arg 6) (s.arg 5) ∧ Apart (s.arg 1) 12 (s.arg 6) (s.arg 5) ∧
      Apart (s.arg 2) (s.arg 3) (s.arg 6) (s.arg 5) ∧
      (s.arg 4 = s.arg 6 ∨ Apart (s.arg 4) (s.arg 5) (s.arg 6) (s.arg 5)) ∧
      Apart (s.arg 0) 32 (s.arg 7) 16 ∧ Apart (s.arg 1) 12 (s.arg 7) 16 ∧
      Apart (s.arg 2) (s.arg 3) (s.arg 7) 16 ∧ Apart (s.arg 4) (s.arg 5) (s.arg 7) 16 := by
  decide +kernel

/-- A tag that differs and one that agrees. -/
theorem witness_AeadDec :
    (∀ s ∈ [decState 0x75, decState 0x74],
      s.dbuf.wf ∧ s.arg 0 + 32 ≤ s.dbufSize ∧ s.arg 1 + 12 ≤ s.dbufSize ∧
      Fits (s.arg 2) (s.arg 3) s.dbufSize ∧ Fits (s.arg 4) (s.arg 5) s.dbufSize ∧
      Fits (s.arg 6) (s.arg 5) s.dbufSize ∧ s.arg 7 + 16 ≤ s.dbufSize ∧
      Apart (s.arg 0) 32 (s.arg 6) (s.arg 5) ∧ Apart (s.arg 1) 12 (s.arg 6) (s.arg 5) ∧
      Apart (s.arg 2) (s.arg 3) (s.arg 6) (s.arg 5) ∧
      (s.arg 4 = s.arg 6 ∨ Apart (s.arg 4) (s.arg 5) (s.arg 6) (s.arg 5)) ∧
      Apart (s.arg 7) 16 (s.arg 6) (s.arg 5)) ∧
      (after .aeadDec (decState 0x75)).errCode = .ok ∧ (after .aeadDec (decState 0x74)).errCode = .auth := by
  decide +kernel

theorem witness_AeadRoundTrip :
    let s := on aeadRam [0, 0x20, 0x60, 3, 0x40, 15, 0x80, 0xA0]
    let b := argv [0, 0x20, 0x60, 3, 0x80, 15, 0x80, 0xA0]
    (s.dbuf.wf ∧ s.arg 0 + 32 ≤ s.dbufSize ∧ s.arg 1 + 12 ≤ s.dbufSize ∧
      Fits (s.arg 2) (s.arg 3) s.dbufSize ∧ Fits (s.arg 4) (s.arg 5) s.dbufSize ∧
      Fits (s.arg 6) (s.arg 5) s.dbufSize ∧ s.arg 7 + 16 ≤ s.dbufSize ∧
      Apart (s.arg 6) (s.arg 5) (s.arg 7) 16 ∧
      Apart (s.arg 0) 32 (s.arg 6) (s.arg 5) ∧ Apart (s.arg 1) 12 (s.arg 6) (s.arg 5) ∧
      Apart (s.arg 2) (s.arg 3) (s.arg 6) (s.arg 5) ∧
      (s.arg 4 = s.arg 6 ∨ Apart (s.arg 4) (s.arg 5) (s.arg 6) (s.arg 5)) ∧
      Apart (s.arg 0) 32 (s.arg 7) 16 ∧ Apart (s.arg 1) 12 (s.arg 7) 16 ∧
      Apart (s.arg 2) (s.arg 3) (s.arg 7) 16 ∧ Apart (s.arg 4) (s.arg 5) (s.arg 7) 16) ∧
      b[0] = s.args[0] ∧ b[1] = s.args[1] ∧
      b[2] = s.args[2] ∧ b[3] = s.args[3] ∧ b[4] = s.args[6] ∧ b[5] = s.args[5] ∧ b[7] = s.args[7] ∧
      Fits b[6].toNat b[5].toNat s.dbufSize ∧ Apart b[0].toNat 32 b[6].toNat b[5].toNat ∧
      Apart b[1].toNat 12 b[6].toNat b[5].toNat ∧ Apart b[2].toNat b[3].toNat b[6].toNat b[5].toNat ∧
      b[4] = b[6] ∧ Apart b[7].toNat 16 b[6].toNat b[5].toNat := by
  intro s b
  constructor <;> decide +kernel

/-- For the statements on `sha.fold`, `sha.round`, `sha.loadblk`, `sha.final` and the staged compression. -/
theorem witness_ShaStage :
    let s := on shaRam [4032] ready
    let a := argv [4032, 64]
    s.flags.shaActive = true ∧ s.dbuf.wf ∧ s.arg 0 + 64 ≤ s.dbufSize ∧ (63 : Fin 256).val < 64 ∧
      s.pb = [] ∧ a[0] = s.args[0] ∧ a[1].toNat = 64 := by decide +kernel

theorem witness_ShaFinal :
    let s := { on shaRam [4064] ready with pb := [0x61, 0x62, 0x63], blen := 24#64 }
    s.flags.shaActive = true ∧ s.dbuf.wf ∧ s.arg 0 + 32 ≤ s.dbufSize ∧ 52 < 64 ∧
      (s.pb.length + 1 + 52 + 8) % 64 = 0 := by decide +kernel

theorem witness_ShaUpdateSplits :
    let s := on shaRam [0x100, 100] ready
    let a := argv [0x100, 70]
    let b := argv [0x146, 30]
    s.flags.shaActive = true ∧ Fits (s.arg 0) (s.arg 1) s.dbufSize ∧ a[0] = s.args[0] ∧
      a[0].toNat + a[1].toNat = b[0].toNat ∧ a[1].toNat + b[1].toNat = s.arg 1 := by decide +kernel

theorem witness_StreamedHash :
    let s := on shaRam [0x100, 3, 0x140]
    let a := argv [0x100, 3]
    let b := argv [0x140]
    s.dbuf.wf ∧ Fits (s.arg 0) (s.arg 1) s.dbufSize ∧ s.arg 2 + 32 ≤ s.dbufSize ∧
      Apart (s.arg 0) (s.arg 1) (s.arg 2) 32 ∧ a[0] = s.args[0] ∧ a[1] = s.args[1] ∧
      b[0] = s.args[2] := by decide +kernel

theorem witness_Hmac :
    ∀ s ∈ [on [] [0, 65, 0x100, 3, 0x200], on [] [0, 64, 0x100, 0, 4064], on [] [0, 0, 0, 0, 0]],
      s.dbuf.wf ∧ Fits (s.arg 0) (s.arg 1) s.dbufSize ∧ Fits (s.arg 2) (s.arg 3) s.dbufSize ∧
      s.arg 4 + 32 ≤ s.dbufSize ∧ Apart (s.arg 0) (s.arg 1) (s.arg 4) 32 ∧
      Apart (s.arg 2) (s.arg 3) (s.arg 4) 32 := by decide +kernel

theorem witness_Extract :
    ∀ s ∈ [on hkdfRam [0x20, 13, 0, 22], on hkdfRam [0xFFFFFFFF, 0, 0, 4096]],
      Fits (s.arg 0) (s.arg 1) s.dbufSize ∧ Fits (s.arg 2) (s.arg 3) s.dbufSize := by decide +kernel

/-- L = 42, L = 0, and L = 8160 with a DBUF that holds it. -/
theorem witness_Expand :
    ∀ s ∈ [on hkdfRam [0x40, 10, 0x100, 42] ready, on hkdfRam [0, 0, 0, 0] ready,
        { on hkdfRam [0, 0, 0x100, 8160] ready with dbufSize := 16384 }],
      s.flags.prkValid = true ∧ s.dbuf.wf ∧ s.arg 3 ≤ 8160 ∧ Fits (s.arg 0) (s.arg 1) s.dbufSize ∧
      Fits (s.arg 2) (s.arg 3) s.dbufSize ∧ Apart (s.arg 0) (s.arg 1) (s.arg 2) (s.arg 3) := by
  decide +kernel

theorem witness_StagedHkdf :
    let s := on hkdfRam [0, 22, 0x20, 13, 0x40, 10, 0x140, 42]
    let a := argv [0x20, 13, 0, 22]
    let b := argv [0x40, 10, 0x140, 42]
    s.dbuf.wf ∧ s.arg 7 ≤ 8160 ∧ Fits (s.arg 0) (s.arg 1) s.dbufSize ∧
      Fits (s.arg 2) (s.arg 3) s.dbufSize ∧ Fits (s.arg 4) (s.arg 5) s.dbufSize ∧
      Fits (s.arg 6) (s.arg 7) s.dbufSize ∧ Apart (s.arg 0) (s.arg 1) (s.arg 6) (s.arg 7) ∧
      Apart (s.arg 2) (s.arg 3) (s.arg 6) (s.arg 7) ∧ Apart (s.arg 4) (s.arg 5) (s.arg 6) (s.arg 7) ∧
      a[0] = s.args[2] ∧ a[1] = s.args[3] ∧
      a[2] = s.args[0] ∧ a[3] = s.args[1] ∧ b[0] = s.args[4] ∧ b[1] = s.args[5] ∧ b[2] = s.args[6] ∧
      b[3] = s.args[7] := by decide +kernel

end Sys2Proof.Tests
end

section
/-! PROOF. R15: a one-shot command touches no stage state and depends on none. Of the state, the checks and
the body of a one-shot look at the ARGs, DBUF, DBUF_SIZE and RESULT only, so two states that agree on these
run it to the same DBUF, RESULT and code. -/

namespace Sys2Proof.OneShot

open Sys2Proof.Machine Sys2Proof.Laws

/-- The one-shot commands (R15). -/
abbrev oneShots : List Instr := [.x25519, .xKeygen, .pMac, .aeadEnc, .aeadDec, .sha256, .hmac, .hkdf]

/-- The state with DBUF and RESULT replaced: all that the body of a one-shot command can write (R15). -/
def withData (s : State) (d : Memory) (r : Bool) : State := { s with dbuf := d, result := r }

theorem memWrite_eq_withData (s : State) (a : Nat) (bs : List Byte) :
    s.memWrite a bs = withData s (s.dbuf.writeBytes a bs) s.result := rfl

@[simp] theorem withData_dbuf (s : State) (d : Memory) (r : Bool) : (withData s d r).dbuf = d := rfl

@[simp] theorem withData_result (s : State) (d : Memory) (r : Bool) : (withData s d r).result = r := rfl

@[simp] theorem withData_withData (s : State) (d d' : Memory) (r r' : Bool) :
    withData (withData s d r) d' r' = withData s d' r' := rfl

theorem withData_self (s : State) : withData s s.dbuf s.result = s := rfl

section SameData

variable {s u : State} {i : Instr}

theorem arg_congr (hargs : u.args = s.args) (n : Fin 8) : u.arg n = s.arg n := by
  rw [State.arg, State.arg, hargs]

theorem memRead_congr (hdbuf : u.dbuf = s.dbuf) (a n : Nat) : u.memRead a n = s.memRead a n := by
  rw [State.memRead, State.memRead, hdbuf]

/-- A one-shot needs no sequencing flag, and its regions and lengths are operands (R28, R106). -/
theorem checkFailure_oneShot_congr (hi : i ∈ oneShots) (hargs : u.args = s.args)
    (hsize : u.dbufSize = s.dbufSize) : checkFailure i u = checkFailure i s := by
  have hchecks : commandChecks i u = commandChecks i s := by
    fin_cases hi <;> simp only [commandChecks, State.fixed, State.sized, arg_congr hargs]
  rw [checkFailure, checkFailure, hchecks, hsize]

/-- The body of a one-shot other than `aead.dec` keeps RESULT, and writes the same DBUF in two states with the
same ARGs and DBUF. -/
theorem exec_oneShot_write (hi : i ∈ oneShots) (hne : i ≠ .aeadDec) (hargs : u.args = s.args)
    (hdbuf : u.dbuf = s.dbuf) :
    ∃ d, exec i s = runCommand i s (withData s d s.result) ∧
      exec i u = runCommand i u (withData u d u.result) := by
  have hwrite : i ∈ oneShots.erase .aeadDec := (List.mem_erase_of_ne hne).mpr hi
  fin_cases hwrite
  all_goals
    simp only [exec, execX25519, execXKeygen, execPMac, execAeadEnc, execSha256, execHmac, execHkdf,
      memWrite_eq_withData, withData_dbuf, withData_result, withData_withData, arg_congr hargs,
      memRead_congr hdbuf, hdbuf]
    exact ⟨_, rfl, rfl⟩

/-- The body of `aead.dec` takes the same of its two outcomes in two states with the same ARGs and DBUF: the
plaintext with RESULT 0, or RESULT 1 and E_AUTH (R233). -/
theorem exec_aeadDec_outcome (hargs : u.args = s.args) (hdbuf : u.dbuf = s.dbuf) :
    ∃ d r e, exec .aeadDec s = runJudged .aeadDec s (withData s d r, e) ∧
      exec .aeadDec u = runJudged .aeadDec u (withData u d r, e) := by
  simp only [exec, execAeadDec, arg_congr hargs, memRead_congr hdbuf, memWrite_eq_withData, hdbuf]
  split
  · exact ⟨_, false, .ok, rfl, rfl⟩
  · exact ⟨s.dbuf, true, .auth, rfl, by rw [← hdbuf]; rfl⟩

/-- The bodies of a one-shot in two states with the same ARGs, DBUF and RESULT write the same DBUF, the same
RESULT and end with the same code; RESULT is written by `aead.dec` only. -/
theorem exec_oneShot_body (hi : i ∈ oneShots) (hargs : u.args = s.args) (hdbuf : u.dbuf = s.dbuf)
    (hresult : u.result = s.result) :
    ∃ d r e, exec i s = runJudged i s (withData s d r, e) ∧
      exec i u = runJudged i u (withData u d r, e) ∧ (i ≠ .aeadDec → r = s.result) := by
  by_cases hdec : i = .aeadDec
  · obtain ⟨d, r, e, hs, hu⟩ := exec_aeadDec_outcome hargs hdbuf
    subst hdec
    exact ⟨d, r, e, hs, hu, fun hne => absurd rfl hne⟩
  · obtain ⟨d, hs, hu⟩ := exec_oneShot_write hi hdec hargs hdbuf
    exact ⟨d, s.result, .ok, hs, hresult ▸ hu, fun _ => rfl⟩

/-- A one-shot completes in two such states with the same DBUF, RESULT and code, and changes nothing else. -/
theorem exec_oneShot (hi : i ∈ oneShots) (hargs : u.args = s.args) (hdbuf : u.dbuf = s.dbuf)
    (hsize : u.dbufSize = s.dbufSize) (hresult : u.result = s.result) :
    ∃ d r e, exec i s = .next ((withData s d r).complete e) ∧
      exec i u = .next ((withData u d r).complete e) ∧ (i ≠ .aeadDec → r = s.result) := by
  have hcheck := checkFailure_oneShot_congr hi hargs hsize
  cases hc : checkFailure i s with
  | some e =>
    refine ⟨s.dbuf, s.result, e, exec_of_failure hc, ?_, fun _ => rfl⟩
    rw [exec_of_failure (hcheck.trans hc), ← hdbuf, ← hresult, withData_self]
  | none =>
    obtain ⟨d, r, e, hs, hu, hr⟩ := exec_oneShot_body hi hargs hdbuf hresult
    exact ⟨d, r, e, by rw [hs, runJudged_of_pass hc], by rw [hu, runJudged_of_pass (hcheck.trans hc)], hr⟩

end SameData

/-- Settles O17: the run in the other state is the same by `exec_oneShot`. -/
theorem oneShotsTouchNoStageState : Obligations.OneShotsTouchNoStageState := by
  intro i s u t hi hargs hdbuf hsize hresult ht
  obtain ⟨d, r, e, hs, hu, hr⟩ := exec_oneShot hi hargs hdbuf hsize hresult
  obtain rfl : t = (withData s d r).complete e := by simpa [hs] using ht.symm
  exact ⟨rfl, hr, hu⟩

end Sys2Proof.OneShot
end

section
/-! PROOF. What each command can write (10_state.md R21 to R32, R41): a table of the parts of the state per
command, and that a command leaves alone every part its row does not name. -/

namespace Sys2Proof.Footprint

open Sys2Proof.Machine Sys2Proof.Laws

/-- The parts of the state a command can write, besides STATUS. -/
inductive Part where
  | fe | scalar | swap | s0 | x | poly | sha | prk | result | dbuf
  deriving DecidableEq

/-- The parts each command can write. -/
def writes : Instr → List Part
  | .zeroize => [.fe, .scalar, .swap, .s0, .x, .poly, .sha, .prk]
  | .memzero | .feStore _ | .x25519 | .xKeygen | .pMac | .aeadEnc | .sha256 | .hmac | .hkdf => [.dbuf]
  | .ctEq => [.result]
  | .aeadDec => [.dbuf, .result]
  | .feLoad _ | .feSeti _ | .feMov _ _ | .feAdd _ _ _ | .feSub _ _ _ | .feMul _ _ _ | .feSqr _ _
  | .feMula24 _ _ | .feInv _ _ | .feCswap _ _ => [.fe]
  | .xLdscalar => [.scalar]
  | .xInit _ | .xStep _ => [.fe, .swap]
  | .xFinish _ => [.fe, .scalar, .swap]
  | .ccInit => [.s0, .x]
  | .ccQr _ _ _ _ | .ccDround | .ccLoadx => [.x]
  | .ccAddout => [.dbuf, .s0]
  | .ccBlock | .ccXor => [.dbuf, .s0, .x]
  | .pKey | .pAcc | .pMul | .pUpdate => [.poly]
  | .pFinal => [.dbuf, .poly]
  | .shaInit | .shaUpdate | .shaLoadblk | .shaRound _ | .shaFold => [.sha]
  | .shaFinal => [.dbuf, .sha]
  | .hkdfExtract => [.prk]
  | .hkdfExpand => [.dbuf, .prk]
  | .nop => []

/-- `t` holds what `s` holds in every part that is not among `ps`. -/
structure Frame (ps : List Part) (s t : State) : Prop where
  fe : .fe ∉ ps → t.fe = s.fe
  scalar : .scalar ∉ ps → t.scalar = s.scalar
  swap : .swap ∉ ps → t.swap = s.swap
  s0 : .s0 ∉ ps → t.s0 = s.s0
  x : .x ∉ ps → t.x = s.x
  poly : .poly ∉ ps → t.pr = s.pr ∧ t.ps = s.ps ∧ t.ph = s.ph
  sha : .sha ∉ ps → t.sh = s.sh ∧ t.blen = s.blen ∧ t.pb = s.pb ∧ t.w = s.w ∧ t.wv = s.wv
  prk : .prk ∉ ps → t.prk = s.prk
  result : .result ∉ ps → t.result = s.result
  dbuf : .dbuf ∉ ps → t.dbuf = s.dbuf

section

variable {i : Instr} {s t b : State}

/-- A failed check writes STATUS only (R307). -/
theorem frame_complete (ps : List Part) (s : State) (e : ErrCode) : Frame ps s (s.complete e) := by
  constructor <;> simp

/-- Past its checks, a command that cannot fail completes its body. -/
theorem eq_complete_of_pass (hpass : checkFailure i s = none) (h : runCommand i s b = .next t) :
    t = b.complete .ok := by
  simpa [runCommand_of_pass hpass] using h.symm

/-- Past its checks `aead.dec` completes with the plaintext and OK, or with RESULT 1 and E_AUTH (R233). -/
theorem aeadDec_of_pass (hpass : checkFailure .aeadDec s = none) (h : exec .aeadDec s = .next t) :
    (∃ bs : List Byte, bs.length = s.arg 5 ∧
      t = { s.memWrite (s.arg 6) bs with result := false }.complete .ok) ∨
    t = { s with result := true }.complete .auth := by
  simp only [exec, execAeadDec, runJudged_of_pass hpass, Host.Outcome.next.injEq] at h
  split at h
  · exact .inl ⟨_, by simp, h.symm⟩
  · exact .inr h.symm

/-- No command writes a part that its row of the table does not name. -/
theorem exec_frame (h : exec i s = .next t) : Frame (writes i) s t := by
  obtain ⟨e, -, rfl⟩ | hpass := exec_cases h
  · exact frame_complete _ _ _
  · cases i
    case aeadDec =>
      obtain ⟨bs, -, rfl⟩ | rfl := aeadDec_of_pass hpass h
      all_goals constructor <;> simp [writes]
    all_goals
      obtain rfl := eq_complete_of_pass hpass h
      constructor <;> simp [writes, State.setFe]

/-- What every command leaves in the registers the host owns and in BUSY and DONE (R306). -/
theorem exec_hostRegisters (h : exec i s = .next t) :
    t.busy = false ∧ t.done = true ∧ t.args = s.args ∧ t.cmd = s.cmd ∧ t.ie = s.ie ∧
      t.hostErr = s.hostErr ∧ t.dbufSize = s.dbufSize := by
  obtain ⟨u, hu, hbusy, hdone, hargs, hcmd, hie, herr, hsize, -⟩ := exec_completes i s
  obtain rfl : u = t := by simpa [hu] using h
  exact ⟨hbusy, hdone, hargs, hcmd, hie, herr, hsize⟩

/-- The sequencing flags a command leaves once its checks pass: the columns "set by" and "cleared by" of
R28. -/
def flagsAfter : Instr → SeqFlags → SeqFlags
  | .zeroize, _ => .clear
  | .ccInit, f => { f with ccKeyed := true }
  | .pKey, f => { f with pKeyed := true }
  | .pFinal, f => { f with pKeyed := false }
  | .shaInit, f => { f with shaActive := true }
  | .shaFinal, f => { f with shaActive := false }
  | .hkdfExtract, f => { f with prkValid := true }
  | .hkdfExpand, f => { f with prkValid := false }
  | .xLdscalar, f => { f with xScalarValid := true }
  | .xInit _, f => { f with xLadderActive := true }
  | .xFinish _, f => { f with xScalarValid := false, xLadderActive := false }
  | _, f => f

/-- Past its checks a command leaves the flags as its row of R28 says. -/
theorem exec_flags_of_pass (hpass : checkFailure i s = none) (h : exec i s = .next t) :
    t.flags = flagsAfter i s.flags := by
  cases i
  case aeadDec =>
    obtain ⟨bs, -, rfl⟩ | rfl := aeadDec_of_pass hpass h <;> rfl
  all_goals
    obtain rfl := eq_complete_of_pass hpass h
    simp [flagsAfter, State.setFe]

/-- A part that differs after a command is one that its row of the table names. -/
theorem mem_writes_of_ne {q : Part} {α : Type} {x y : α} (hkeep : q ∉ writes i → x = y) (hne : x ≠ y) :
    q ∈ writes i :=
  not_imp_comm.mp hkeep hne

end

/-- Settles O16: a command whose flags differ passed its checks and is a row of `flagsAfter`. -/
theorem sequencingFlagsChangeOnlyAsTabled : Obligations.SequencingFlagsChangeOnlyAsTabled := by
  intro i s t h
  obtain ⟨e, -, rfl⟩ | hpass := exec_cases h
  · simp
  · rw [exec_flags_of_pass hpass h]
    cases i <;> simp [flagsAfter, SeqFlags.clear]

/-- Settles O15: the rows of the table that name FE, X, S0, RESULT and PRK are the commands listed. -/
theorem onlyTheNamedCommandsWriteEachRegister : Obligations.OnlyTheNamedCommandsWriteEachRegister := by
  intro i s t h
  obtain ⟨-, -, hargs, hcmd, hie, herr, hsize⟩ := exec_hostRegisters h
  have hframe := exec_frame h
  refine ⟨hargs, hcmd, hie, herr, hsize, ?_ ∘ mem_writes_of_ne hframe.fe, ?_ ∘ mem_writes_of_ne hframe.x,
    ?_ ∘ mem_writes_of_ne hframe.s0, ?_ ∘ mem_writes_of_ne hframe.result,
    ?_ ∘ mem_writes_of_ne hframe.prk⟩
  all_goals cases i <;> simp [writes]

end Sys2Proof.Footprint
end

section
/-! PROOF. The invariant (10_state.md R46, 70_reset_and_hazards.md R350), unit by unit: each unit's registers
with the flag that guards them. -/

namespace Sys2Proof.Invariant

open Sys2Proof.Machine Sys2Proof.Laws Sys2Proof.Footprint

/-! ### The values the units hold -/

/-- The last byte of a string is its most significant one (R11). -/
theorem leNat_concat (bs : List Byte) (b : Byte) :
    leNat (bs ++ [b]) = leNat bs + 256 ^ bs.length * b.toNat := by
  simp [leNat_append, leNat]

/-- Clamp(K) of 32 bytes, as a number: a multiple of 8 with bit 254 as its highest (R170). -/
theorem leNat_clamp_bounds (k : List Byte) (hk : k.length = 32) :
    leNat (clamp k) % 8 = 0 ∧ 2 ^ 254 ≤ leNat (clamp k) ∧ leNat (clamp k) < 2 ^ 255 := by
  obtain ⟨a, r, rfl⟩ := List.exists_cons_of_length_eq_add_one hk
  obtain ⟨m, b, l, rfl, hm, hmodify⟩ := List.exists_of_modify (i := 30)
    (fun b : Byte => (b &&& 0x7F#8) ||| 0x40#8) (l := r) (by simp at hk; omega)
  obtain rfl : l = [] := List.eq_nil_of_length_eq_zero (by simp [hm] at hk; omega)
  have hclamp : clamp (a :: (m ++ [b])) = (a &&& 0xF8#8) :: (m ++ [(b &&& 0x7F#8) ||| 0x40#8]) := by
    simp [clamp, hmodify]
  have hlow : ∀ a : Byte, (a &&& 0xF8#8).toNat % 8 = 0 := by decide
  have hhigh : ∀ b : Byte, 64 ≤ ((b &&& 0x7F#8) ||| 0x40#8).toNat ∧
      ((b &&& 0x7F#8) ||| 0x40#8).toNat < 128 := by decide
  specialize hlow a
  specialize hhigh b
  have hmid := leNat_lt m
  rw [hclamp, leNat, leNat_concat]
  rw [hm] at hmid ⊢
  omega

/-- The stream advances S0[12] only (R203). -/
theorem streamRun_s0_getElem (n : Nat) (s0 x : CcMatrix) (inp : List Byte) (i : Nat) (hi : i < 16)
    (hne : i ≠ 12) : (streamRun n s0 x inp).s0[i] = s0[i] := by
  induction n generalizing s0 x inp with
  | zero => rfl
  | succ n ih => simp [streamRun, ih, bumpCounter, Vector.getElem_set_ne, hne.symm]

/-! ### The invariant by units -/

/-- The ChaCha20 unit: the constants in S0 while keyed, nothing while not (R191, R46). -/
structure ChaChaInv (s : State) : Prop where
  keyed : s.flags.ccKeyed = true →
    s.s0[0] = sigma[0] ∧ s.s0[1] = sigma[1] ∧ s.s0[2] = sigma[2] ∧ s.s0[3] = sigma[3]
  clear : s.flags.ccKeyed = false →
    s.s0 = Vector.replicate 16 0#32 ∧ s.x = Vector.replicate 16 0#32

/-- The Poly1305 unit: a clamped r, and nothing while not keyed (R211, R46). -/
structure PolyInv (s : State) : Prop where
  clamped : s.pr &&& polyClampMask = s.pr
  clear : s.flags.pKeyed = false → s.pr = 0#128 ∧ s.ps = 0#128 ∧ s.ph = phZero

/-- The SHA-256 unit: a partial block that BLEN counts, and nothing while not active (R26, R46). -/
structure ShaInv (s : State) : Prop where
  buffer : s.ShaBufferInv
  clear : s.flags.shaActive = false →
    s.sh = Vector.replicate 8 0#32 ∧ s.blen = 0#64 ∧ s.pb = [] ∧
    s.w = Vector.replicate 64 0#32 ∧ s.wv = Vector.replicate 8 0#32

/-- SCALAR: clamped while valid, 0 while not (R170, R46). -/
structure ScalarInv (s : State) : Prop where
  valid : s.flags.xScalarValid = true →
    s.scalar.toNat % 8 = 0 ∧ 2 ^ 254 ≤ s.scalar.toNat ∧ s.scalar.toNat < 2 ^ 255
  clear : s.flags.xScalarValid = false → s.scalar = 0#256

/-- PRK is 0 while not valid (R46). -/
def PrkInv (s : State) : Prop := s.flags.prkValid = false → s.prk = Vector.replicate 32 0#8

/-- SWAP is 0 while no ladder is active (R46). -/
def SwapInv (s : State) : Prop := s.flags.xLadderActive = false → s.swap = false

/-- What the commands' units keep: the invariant without DBUF and STATUS. -/
structure UnitsInv (s : State) : Prop where
  chaCha : ChaChaInv s
  poly : PolyInv s
  sha : ShaInv s
  scalar : ScalarInv s
  prk : PrkInv s
  swap : SwapInv s

/-- The invariant is that of DBUF, of STATUS and of each unit. -/
theorem inv_iff (s : State) :
    s.Inv ↔ Config.LegalDbufSize s.dbufSize ∧ s.MemoryInv ∧ s.StatusInv ∧ UnitsInv s := by
  constructor
  · rintro ⟨hsize, hmem, hbuf, hkey, hstatus, hcc, hp, hsha, hprk, hx, hswap⟩
    obtain ⟨hpr, hscalar, hs0⟩ := hkey
    exact ⟨hsize, hmem, hstatus, ⟨hs0, hcc⟩, ⟨hpr, hp⟩, ⟨hbuf, hsha⟩, ⟨hscalar, hx⟩, hprk, hswap⟩
  · rintro ⟨hsize, hmem, hstatus, hunits⟩
    obtain ⟨⟨hs0, hcc⟩, ⟨hpr, hp⟩, ⟨hbuf, hsha⟩, ⟨hscalar, hx⟩, hprk, hswap⟩ := hunits
    exact ⟨hsize, hmem, hbuf, ⟨hpr, hscalar, hs0⟩, hstatus, hcc, hp, hsha, hprk, hx, hswap⟩

/-- STATUS has nothing to say while no command runs. -/
theorem statusInv_of_idle {s : State} (hidle : s.busy = false) : s.StatusInv := by
  intro hbusy
  simp [hidle] at hbusy

/-- An empty partial block with BLEN 0, as `sha.init`, `sha.final`, `zeroize` and a reset leave it. -/
theorem shaBufferInv_empty {s : State} (hpb : s.pb = []) (hblen : s.blen = 0#64) : s.ShaBufferInv := by
  rw [State.ShaBufferInv, hpb, hblen]
  decide

/-- Completion changes STATUS only (R306). -/
theorem complete_inv {s : State} (hs : s.Inv) (e : ErrCode) : (s.complete e).Inv := by
  obtain ⟨hsize, hmem, hbuf, hkey, -, hclear⟩ := hs
  exact ⟨hsize, hmem, hbuf, hkey, statusInv_of_idle rfl, hclear⟩

/-! ### Reset -/

/-- A reset establishes the invariant whatever the state was (R45). -/
theorem toReset_inv (s : State) (hsize : Config.LegalDbufSize s.dbufSize) : s.toReset.Inv := by
  refine (inv_iff _).mpr ⟨hsize, ⟨wf_nil, List.forall_mem_nil _⟩, statusInv_of_idle rfl, ?_⟩
  exact ⟨⟨by simp [SeqFlags.clear], by simp⟩, ⟨by simp, by simp⟩, ⟨shaBufferInv_empty rfl rfl, by simp⟩,
    ⟨by simp [SeqFlags.clear], by simp⟩, by simp [PrkInv], by simp [SwapInv]⟩

/-- Settles O8: `State.reset` is its own reset. -/
theorem resetSatisfiesInvariant : Obligations.ResetSatisfiesInvariant :=
  toReset_inv State.reset (by decide)

/-! ### Commands -/

section

variable {i : Instr} {s t : State}

/-- A command past its checks finds the flags it needs set (R28). -/
theorem sequenceOk_of_pass (hpass : checkFailure i s = none) : (commandChecks i s).sequenceOk = true := by
  obtain ⟨-, -, -, -, hseq⟩ := (checkFailure_eq_none_iff i s).mp hpass
  exact hseq

/-- A unit whose registers and flag are as they were keeps its invariant. -/
theorem chaChaInv_congr (hs : ChaChaInv s) (hs0 : t.s0 = s.s0) (hx : t.x = s.x)
    (hf : t.flags.ccKeyed = s.flags.ccKeyed) : ChaChaInv t :=
  ⟨by rw [hf, hs0]; exact hs.keyed, by rw [hf, hs0, hx]; exact hs.clear⟩

/-- While keyed, the unit's invariant is about the constants alone. -/
theorem chaChaInv_of_keyed {m : CcMatrix} (hf : t.flags.ccKeyed = true) (hs0 : t.s0 = m)
    (h : ∀ k (hk : k < 4), m[k] = sigma[k]) : ChaChaInv t := by
  subst hs0
  exact ⟨fun _ => ⟨h 0 (by decide), h 1 (by decide), h 2 (by decide), h 3 (by decide)⟩, by simp [hf]⟩

theorem s0_eq_sigma_of_keyed (hs : ChaChaInv s) (hf : s.flags.ccKeyed = true) :
    ∀ k (hk : k < 4), s.s0[k] = sigma[k] := by
  obtain ⟨h0, h1, h2, h3⟩ := hs.keyed hf
  intro k hk
  interval_cases k <;> assumption

/-- Whatever the key, the matrix starts with the constants (R191). -/
theorem chaChaInit_getElem_lt (key nonce : List Byte) (ctr : Word) (k : Nat) (hk : k < 4) :
    (chaChaInit key nonce ctr)[k] = sigma[k] := by
  interval_cases k <;> rfl

/-- Advancing the counter leaves the constants (R203). -/
theorem bumpCounter_getElem_lt (m : CcMatrix) (k : Nat) (hk : k < 4) : (bumpCounter m)[k] = m[k] :=
  Vector.getElem_set_ne _ _ (by omega)

/-- `cc.init` loads the constants, and only the counter among the words of S0 changes after it. -/
theorem exec_chaChaInv (hs : ChaChaInv s) (hpass : checkFailure i s = none)
    (h : exec i s = .next t) : ChaChaInv t := by
  have hframe := exec_frame h
  have hflags := congrArg SeqFlags.ccKeyed (exec_flags_of_pass hpass h)
  have hsigma := s0_eq_sigma_of_keyed hs
  cases i with
  | zeroize =>
    obtain rfl := eq_complete_of_pass hpass h
    exact ⟨by simp [SeqFlags.clear], by simp⟩
  | ccInit =>
    exact chaChaInv_of_keyed hflags (by rw [eq_complete_of_pass hpass h]; rfl)
      (chaChaInit_getElem_lt _ _ _)
  | ccQr | ccDround | ccLoadx =>
    have hk : s.flags.ccKeyed = true := sequenceOk_of_pass hpass
    exact chaChaInv_of_keyed (hflags.trans hk) (hframe.s0 (by simp [writes])) (hsigma hk)
  | ccAddout | ccBlock =>
    have hk : s.flags.ccKeyed = true := sequenceOk_of_pass hpass
    exact chaChaInv_of_keyed (hflags.trans hk) (by rw [eq_complete_of_pass hpass h]; rfl)
      fun k hlt => (bumpCounter_getElem_lt s.s0 k hlt).trans (hsigma hk k hlt)
  | ccXor =>
    have hk : s.flags.ccKeyed = true := sequenceOk_of_pass hpass
    exact chaChaInv_of_keyed (hflags.trans hk) (by rw [eq_complete_of_pass hpass h]; rfl)
      fun k hlt => (streamRun_s0_getElem _ s.s0 s.x _ k (by omega) (by omega)).trans (hsigma hk k hlt)
  | _ =>
    exact chaChaInv_congr hs (hframe.s0 (by simp [writes])) (hframe.x (by simp [writes])) hflags

theorem polyInv_congr (hs : PolyInv s) (hregs : t.pr = s.pr ∧ t.ps = s.ps ∧ t.ph = s.ph)
    (hf : t.flags.pKeyed = s.flags.pKeyed) : PolyInv t := by
  obtain ⟨hpr, hps, hph⟩ := hregs
  exact ⟨by rw [hpr]; exact hs.clamped, by rw [hf, hpr, hps, hph]; exact hs.clear⟩

/-- `p.key` clamps r, and r changes next when the key is consumed. -/
theorem exec_polyInv (hs : PolyInv s) (hpass : checkFailure i s = none) (h : exec i s = .next t) :
    PolyInv t := by
  have hflags := congrArg SeqFlags.pKeyed (exec_flags_of_pass hpass h)
  cases i with
  | zeroize | pFinal =>
    obtain rfl := eq_complete_of_pass hpass h
    exact ⟨by simp, by simp⟩
  | pKey =>
    obtain rfl := eq_complete_of_pass hpass h
    exact ⟨polyR_clamped _, by simp⟩
  | pAcc | pMul | pUpdate =>
    have hk : s.flags.pKeyed = true := sequenceOk_of_pass hpass
    have hpr : t.pr = s.pr := by rw [eq_complete_of_pass hpass h]; rfl
    exact ⟨by rw [hpr]; exact hs.clamped, by simp [hflags.trans hk]⟩
  | _ => exact polyInv_congr hs ((exec_frame h).poly (by simp [writes])) hflags

theorem shaInv_congr (hs : ShaInv s)
    (hregs : t.sh = s.sh ∧ t.blen = s.blen ∧ t.pb = s.pb ∧ t.w = s.w ∧ t.wv = s.wv)
    (hf : t.flags.shaActive = s.flags.shaActive) : ShaInv t := by
  obtain ⟨hsh, hblen, hpb, hw, hwv⟩ := hregs
  exact ⟨by rw [State.ShaBufferInv, hblen, hpb]; exact hs.buffer,
    by rw [hf, hsh, hblen, hpb, hw, hwv]; exact hs.clear⟩

/-- `sha.update` keeps as the partial block what whole blocks leave over, and BLEN counts it (R258, R264). -/
theorem shaBuffer_update {blen : BitVec 64} {pb m d : List Byte} (hd : d = pb ++ m)
    (hb : blen.toNat % 512 = 8 * pb.length) :
    (d.drop (64 * (d.length / 64))).length ≤ 63 ∧
      (blen + BitVec.ofNat 64 (8 * m.length)).toNat % 512 =
        8 * (d.drop (64 * (d.length / 64))).length := by
  have hlen : d.length = pb.length + m.length := by rw [hd, List.length_append]
  rw [List.length_drop, BitVec.toNat_add, BitVec.toNat_ofNat]
  omega

theorem exec_shaInv (hs : ShaInv s) (hpass : checkFailure i s = none) (h : exec i s = .next t) :
    ShaInv t := by
  have hflags := congrArg SeqFlags.shaActive (exec_flags_of_pass hpass h)
  cases i with
  | zeroize | shaInit | shaFinal =>
    obtain rfl := eq_complete_of_pass hpass h
    exact ⟨shaBufferInv_empty rfl rfl, by simp⟩
  | shaUpdate =>
    have hk : s.flags.shaActive = true := sequenceOk_of_pass hpass
    obtain ⟨-, hblen⟩ := hs.buffer
    have hbuf := shaBuffer_update (m := s.memRead (s.arg 0) (s.arg 1)) rfl hblen
    rw [memRead_length] at hbuf
    refine ⟨?_, by simp [hflags.trans hk]⟩
    rw [eq_complete_of_pass hpass h]
    exact hbuf
  | shaLoadblk | shaRound | shaFold =>
    have hk : s.flags.shaActive = true := sequenceOk_of_pass hpass
    have hpb : t.pb = s.pb := by simp [eq_complete_of_pass hpass h]
    have hblen : t.blen = s.blen := by simp [eq_complete_of_pass hpass h]
    exact ⟨by rw [State.ShaBufferInv, hpb, hblen]; exact hs.buffer, by simp [hflags.trans hk]⟩
  | _ => exact shaInv_congr hs ((exec_frame h).sha (by simp [writes])) hflags

theorem exec_scalarInv (hs : ScalarInv s) (hpass : checkFailure i s = none) (h : exec i s = .next t) :
    ScalarInv t := by
  have hflags := congrArg SeqFlags.xScalarValid (exec_flags_of_pass hpass h)
  cases i with
  | zeroize | xFinish =>
    obtain rfl := eq_complete_of_pass hpass h
    exact ⟨by simp [SeqFlags.clear], by simp⟩
  | xLdscalar =>
    obtain ⟨hmod, hle, hlt⟩ := leNat_clamp_bounds (s.memRead (s.arg 0) 32) (memRead_length _ _ _)
    have hscalar : t.scalar.toNat = leNat (clamp (s.memRead (s.arg 0) 32)) := by
      rw [eq_complete_of_pass hpass h]
      exact Nat.mod_eq_of_lt (by omega)
    refine ⟨fun _ => ?_, by simp [hflags, flagsAfter]⟩
    rw [hscalar]
    exact ⟨hmod, hle, hlt⟩
  | _ =>
    have hscalar := (exec_frame h).scalar (by simp [writes])
    exact ⟨by rw [hflags, hscalar]; exact hs.valid, by rw [hflags, hscalar]; exact hs.clear⟩

theorem exec_prkInv (hs : PrkInv s) (hpass : checkFailure i s = none) (h : exec i s = .next t) :
    PrkInv t := by
  have hflags := congrArg SeqFlags.prkValid (exec_flags_of_pass hpass h)
  cases i with
  | zeroize | hkdfExpand =>
    obtain rfl := eq_complete_of_pass hpass h
    exact fun _ => rfl
  | hkdfExtract => simp [PrkInv, hflags, flagsAfter]
  | _ =>
    rw [PrkInv, hflags, (exec_frame h).prk (by simp [writes])]
    exact hs

theorem exec_swapInv (hs : SwapInv s) (hpass : checkFailure i s = none) (h : exec i s = .next t) :
    SwapInv t := by
  have hflags := congrArg SeqFlags.xLadderActive (exec_flags_of_pass hpass h)
  cases i with
  | zeroize | xFinish =>
    obtain rfl := eq_complete_of_pass hpass h
    exact fun _ => rfl
  | xInit => simp [SwapInv, hflags, flagsAfter]
  | xStep =>
    obtain ⟨-, hactive⟩ := (checks_xStep s _).mp hpass
    simp [SwapInv, hflags, flagsAfter, hactive]
  | _ =>
    rw [SwapInv, hflags, (exec_frame h).swap (by simp [writes])]
    exact hs

theorem exec_unitsInv (hs : UnitsInv s) (hpass : checkFailure i s = none) (h : exec i s = .next t) :
    UnitsInv t where
  chaCha := exec_chaChaInv hs.chaCha hpass h
  poly := exec_polyInv hs.poly hpass h
  sha := exec_shaInv hs.sha hpass h
  scalar := exec_scalarInv hs.scalar hpass h
  prk := exec_prkInv hs.prk hpass h
  swap := exec_swapInv hs.swap hpass h

end

/-! ### DBUF under commands -/

/-- The strings stored to their regions, in order. -/
def storeRegions (m : Memory) (ws : List (Region × List Byte)) : Memory :=
  ws.foldl (fun m w => m.writeBytes w.1.addr w.2) m

/-- Stores inside a buffer of `n` bytes keep its canonical form and its bound. -/
theorem storeRegions_wf_below {m : Memory} {n : Nat} {ws : List (Region × List Byte)} (hwf : m.wf)
    (hbelow : m.below n) (hws : ∀ w ∈ ws, Fits w.1.addr w.2.length n) :
    (storeRegions m ws).wf ∧ (storeRegions m ws).below n :=
  List.foldlRecOn (motive := fun m' : Memory => m'.wf ∧ m'.below n) ws _ ⟨hwf, hbelow⟩
    fun _ ⟨hwf', hbelow'⟩ w hw => ⟨writeBytes_wf hwf' _ _,
      writeBytes_below hbelow' ((hws w hw).imp_left List.eq_nil_of_length_eq_zero)⟩

section

variable {i : Instr} {s t : State}

/-- The command left DBUF with strings stored to its output regions, each as long as its region (R106). -/
def StoresOutputs (i : Instr) (s t : State) : Prop :=
  ∃ ws : List (Region × List Byte), t.dbuf = storeRegions s.dbuf ws ∧
    ∀ w ∈ ws, w.1 ∈ (commandChecks i s).outs ∧ w.2.length = w.1.len

theorem storesOutputs_one {b : State} {a : Nat} {bs : List Byte} (r : Region) (ht : t = b.complete .ok)
    (hb : b.dbuf = s.dbuf.writeBytes a bs) (hr : r ∈ (commandChecks i s).outs) (ha : a = r.addr)
    (hlen : bs.length = r.len) : StoresOutputs i s t :=
  ⟨[(r, bs)], by rw [ht, complete_dbuf, hb, ha]; rfl, by simp [hr, hlen]⟩

theorem storesOutputs_two {b : State} {a c : Nat} {bs cs : List Byte} (r q : Region)
    (ht : t = b.complete .ok) (hb : b.dbuf = (s.dbuf.writeBytes a bs).writeBytes c cs)
    (hr : r ∈ (commandChecks i s).outs) (hq : q ∈ (commandChecks i s).outs) (ha : a = r.addr)
    (hc : c = q.addr) (hbs : bs.length = r.len) (hcs : cs.length = q.len) : StoresOutputs i s t :=
  ⟨[(r, bs), (q, cs)], by rw [ht, complete_dbuf, hb, ha, hc]; rfl, by simp [hr, hq, hbs, hcs]⟩

/-- A command past its checks stores to its output regions and nowhere else (R106). -/
theorem exec_storesOutputs (hpass : checkFailure i s = none) (h : exec i s = .next t) :
    StoresOutputs i s t := by
  cases i with
  | memzero | feStore | x25519 | ccAddout | ccBlock | ccXor | pFinal | pMac | shaFinal | sha256 | hmac
  | hkdfExpand | hkdf =>
    exact storesOutputs_one _ (eq_complete_of_pass hpass h)
      (by dsimp only [memWrite_dbuf, zeroRoundStage_dbuf]; rfl) (List.mem_singleton_self _) rfl (by simp)
  | xKeygen | aeadEnc =>
    exact storesOutputs_two _ _ (eq_complete_of_pass hpass h) (by dsimp only [memWrite_dbuf]; rfl)
      List.mem_cons_self (List.mem_cons_of_mem _ List.mem_cons_self) rfl rfl (by simp) (by simp)
  | aeadDec =>
    obtain ⟨bs, hbs, ht⟩ | rfl := aeadDec_of_pass hpass h
    · exact storesOutputs_one (s.sized 6 5) ht rfl (by simp [commandChecks]) rfl hbs
    · exact ⟨[], rfl, by simp⟩
  | _ => exact ⟨[], (exec_frame h).dbuf (by simp [writes]), by simp⟩

theorem exec_memoryInv (hs : s.MemoryInv) (hpass : checkFailure i s = none) (h : exec i s = .next t) :
    t.MemoryInv := by
  obtain ⟨-, -, hfits, -, -⟩ := (checkFailure_eq_none_iff i s).mp hpass
  obtain ⟨-, -, -, -, -, -, hsize⟩ := exec_hostRegisters h
  obtain ⟨ws, hd, hws⟩ := exec_storesOutputs hpass h
  rw [State.MemoryInv, hd, hsize]
  refine storeRegions_wf_below hs.1 hs.2 fun w hw => ?_
  obtain ⟨hmem, hlen⟩ := hws w hw
  rw [hlen]
  exact hfits w.1 (List.mem_append_right _ hmem)

theorem exec_inv (hs : s.Inv) (h : exec i s = .next t) : t.Inv := by
  obtain ⟨e, -, rfl⟩ | hpass := exec_cases h
  · exact complete_inv hs e
  · obtain ⟨hlegal, hmem, -, hunits⟩ := (inv_iff s).mp hs
    obtain ⟨hidle, -, -, -, -, -, hsize⟩ := exec_hostRegisters h
    exact (inv_iff t).mpr ⟨hsize ▸ hlegal, exec_memoryInv hmem hpass h, statusInv_of_idle hidle,
      exec_unitsInv hunits hpass h⟩

end

/-! ### Host accesses -/

section

variable {s : State}

/-- The address of a DBUF access selects a whole word of DBUF, whose size is a multiple of 64 (R9, R78). -/
theorem portTarget_dbuf_le {size off : Nat} {addr : BitVec 32} (hsize : Config.LegalDbufSize size)
    (h : portTarget size addr = .dbuf off) : off + 4 ≤ size := by
  obtain ⟨hmod, -, -⟩ := hsize
  simp only [portTarget] at h
  split at h
  · unfold registerAt at h
    split at h <;> cases h
  · split at h
    · have hoff := PortTarget.dbuf.inj h
      simp only [wordAddress] at *
      omega
    · cases h

/-- A store of byte lanes writes DBUF only, inside the word (R74). -/
theorem storeLanes_dbuf (hmem : s.MemoryInv) {off : Nat} (hoff : off + 4 ≤ s.dbufSize) (data : BitVec 32)
    (strobe : BitVec 4) :
    ∃ d : Memory, s.storeLanes off data strobe = { s with dbuf := d } ∧ d.wf ∧ d.below s.dbufSize := by
  refine List.foldlRecOn
    (motive := fun t => ∃ d : Memory, t = { s with dbuf := d } ∧ d.wf ∧ d.below s.dbufSize)
    (List.range 4) _ ⟨s.dbuf, rfl, hmem⟩ ?_
  rintro _ ⟨d, rfl, hwf, hbelow⟩ i hi
  have hi := List.mem_range.mp hi
  split
  · refine ⟨d.writeBytes (off + i) [data.extractLsb' (8 * i) 8], rfl, writeBytes_wf hwf _ _,
      writeBytes_below hbelow (.inr ?_)⟩
    simp only [List.length_singleton]
    omega
  · exact ⟨d, rfl, hwf, hbelow⟩

theorem storeLanes_inv (hs : s.Inv) {off : Nat} (hoff : off + 4 ≤ s.dbufSize) (data : BitVec 32)
    (strobe : BitVec 4) : (s.storeLanes off data strobe).Inv := by
  obtain ⟨hsize, hmem, hrest⟩ := hs
  obtain ⟨d, hd, hmem'⟩ := storeLanes_dbuf hmem hoff data strobe
  rw [hd]
  exact ⟨hsize, hmem', hrest⟩

/-- Acceptance clears DONE and ERRCODE as it sets BUSY (R304). -/
theorem accept_inv (hs : s.Inv) (w : Word) : (s.accept w).Inv := by
  obtain ⟨hsize, hmem, hbuf, hkey, -, hclear⟩ := hs
  exact ⟨hsize, hmem, hbuf, hkey, fun _ => ⟨rfl, rfl⟩, hclear⟩

theorem clearDone_inv (hs : s.Inv) : s.clearDone.Inv := by
  obtain ⟨hsize, hmem, hbuf, hkey, hstatus, hclear⟩ := hs
  exact ⟨hsize, hmem, hbuf, hkey, fun hbusy => ⟨rfl, (hstatus hbusy).2⟩, hclear⟩

theorem writeRegister_inv (hs : s.Inv) (target : PortTarget) (data : BitVec 32) :
    (s.writeRegister target data).Inv := by
  unfold State.writeRegister
  split
  · split
    · exact toReset_inv s hs.1
    · exact hs
  · have hclear : (if data.getLsbD 1 then s.clearDone else s).Inv := by
      split
      · exact clearDone_inv hs
      · exact hs
    dsimp only
    split
    · exact hclear
    · exact hclear
  · split
    · exact hs
    · exact accept_inv hs data
  · split
    · exact hs
    · exact hs
  · exact hs

theorem portWrite_inv (hs : s.Inv) (addr data : BitVec 32) (strobe : BitVec 4) :
    (s.portWrite addr data strobe).Inv := by
  unfold State.portWrite
  split
  case h_1 off htarget =>
    split
    · exact hs
    · exact storeLanes_inv hs (portTarget_dbuf_le hs.1 htarget) data strobe
  case h_2 => exact hs
  case h_3 =>
    split
    · exact writeRegister_inv hs _ data
    · exact hs

theorem portRead_inv (hs : s.Inv) (addr : BitVec 32) : (s.portRead addr).Inv := by
  unfold State.portRead
  dsimp only
  split
  · split
    · exact hs
    · exact hs
  · exact hs

theorem hostAccess_inv (hs : s.Inv) (a : PortAccess) : (s.hostAccess a).Inv := by
  cases a with
  | read addr => exact portRead_inv hs _
  | write addr data strobe => exact portWrite_inv hs _ data strobe

/-! ### Steps -/

theorem coreTurn_inv {t : State} (hs : s.Inv) (h : coreTurn s = .next t) : t.Inv := by
  obtain ⟨-, rfl⟩ | ⟨-, e, -, rfl⟩ | ⟨-, i, -, h⟩ := coreTurn_cases h
  · exact hs
  · exact complete_inv hs _
  · exact exec_inv hs h

end

/-- Settles O9, by the four things a step can do; no part of the invariant speaks of the schedule. -/
theorem stepKeepsInvariant : Obligations.StepKeepsInvariant := by
  intro s t hs h
  have hsched : ∀ rest, State.Inv { s with schedule := rest } := fun _ => hs
  obtain ⟨-, h⟩ | ⟨rest, -, h⟩ | ⟨a, rest, -, rfl⟩ | ⟨rest, -, rfl⟩ := step_cases h
  · exact coreTurn_inv hs h
  · exact coreTurn_inv (hsched rest) h
  · exact hostAccess_inv (hsched rest) a
  · exact toReset_inv _ (hsched rest).1

end Sys2Proof.Invariant
end

section
/-! PROOF. R28, R301: a missing sequencing flag. The flags are checked last (R305), so a command whose checks
would pass with every flag set fails, if at all, with E_SEQUENCE. -/

namespace Sys2Proof.MissingFlag

open Sys2Proof.Machine Sys2Proof.Laws

/-- The state with every sequencing flag set. -/
def withAllFlags (s : State) : State := { s with flags := ⟨true, true, true, true, true, true⟩ }

/-- Of the checks, only that of the flags looks at the flags. -/
theorem commandChecks_withAllFlags (i : Instr) (s : State) :
    commandChecks i s =
      { commandChecks i (withAllFlags s) with sequenceOk := (commandChecks i s).sequenceOk } := by
  cases i <;> rfl

/-- Checks that pass, but for the flags. -/
theorem failure_of_sequence_only {c : Checks} {size : Nat} (hpass : c.failure size = none) :
    { c with sequenceOk := false }.failure size = some .sequence := by
  obtain ⟨hfield, hlength, hbounds, hoverlap, -⟩ := (failure_eq_none_iff _ _).mp hpass
  have hbounds' : { c with sequenceOk := false }.inBounds size = true := hbounds
  have hoverlap' : { c with sequenceOk := false }.overlapBroken = false := hoverlap
  rw [Checks.failure, hbounds', hoverlap']
  simp [hfield, hlength]

/-- A command that would pass its checks with every flag set, but needs one that is 0. -/
theorem exec_of_missing_flag {i : Instr} {s : State} (hpass : checkFailure i (withAllFlags s) = none)
    (hflag : (commandChecks i s).sequenceOk = false) : exec i s = .next (s.completedWith .sequence) := by
  have hfailure : checkFailure i s = some .sequence := by
    rw [checkFailure, commandChecks_withAllFlags, hflag]
    exact failure_of_sequence_only hpass
  exact exec_of_failure hfailure

/-- Settles O14: each command's earlier checks are those its `checks_` lemma lists besides the flag. -/
theorem missingFlagIsRefused : Obligations.MissingFlagIsRefused := by
  intro s a b c d t
  refine ⟨fun hx => ?xStep, fun hx => ?xFinish, fun hcc i hi => ?stage, fun hcc h0 i hi => ?block,
    fun hcc h0 h1 h2 => ?xor, fun hp => ?pMul, fun hp hlo hhi h0 => ?pAcc, fun hp h0 => ?pUpdate,
    fun hp h0 => ?pFinal, fun hsha h0 => ?shaUpdate, fun hsha h0 => ?shaFinal, fun hsha h0 => ?shaLoadblk,
    fun hsha ht => ?shaRound, fun hsha => ?shaFold, fun hprk hlen h0 h1 h2 => ?expand⟩
  case xStep =>
    exact exec_of_missing_flag ((checks_xStep _ t).mpr ⟨rfl, rfl⟩) (Bool.and_eq_false_iff.mpr hx)
  case xFinish => exact exec_of_missing_flag ((checks_xFinish _ a).mpr rfl) hx
  case stage =>
    simp only [List.mem_cons, List.not_mem_nil, or_false] at hi
    obtain rfl | rfl | rfl := hi
    · exact exec_of_missing_flag ((checks_ccQr _ a b c d).mpr rfl) hcc
    · exact exec_of_missing_flag ((checks_ccDround _).mpr rfl) hcc
    · exact exec_of_missing_flag ((checks_ccLoadx _).mpr rfl) hcc
  case block =>
    simp only [List.mem_cons, List.not_mem_nil, or_false] at hi
    obtain rfl | rfl := hi
    · exact exec_of_missing_flag ((checks_ccAddout _).mpr ⟨h0, rfl⟩) hcc
    · exact exec_of_missing_flag ((checks_ccBlock _).mpr ⟨h0, rfl⟩) hcc
  case xor => exact exec_of_missing_flag ((checks_ccXor _).mpr ⟨h0, h1, h2, rfl⟩) hcc
  case pMul => exact exec_of_missing_flag ((checks_pMul _).mpr rfl) hp
  case pAcc => exact exec_of_missing_flag ((checks_pAcc _).mpr ⟨hlo, hhi, h0, rfl⟩) hp
  case pUpdate => exact exec_of_missing_flag ((checks_pUpdate _).mpr ⟨h0, rfl⟩) hp
  case pFinal => exact exec_of_missing_flag ((checks_pFinal _).mpr ⟨h0, rfl⟩) hp
  case shaUpdate => exact exec_of_missing_flag ((checks_shaUpdate _).mpr ⟨h0, rfl⟩) hsha
  case shaFinal => exact exec_of_missing_flag ((checks_shaFinal _).mpr ⟨h0, rfl⟩) hsha
  case shaLoadblk => exact exec_of_missing_flag ((checks_shaLoadblk _).mpr ⟨h0, rfl⟩) hsha
  case shaRound => exact exec_of_missing_flag ((checks_shaRound _ t).mpr ⟨ht, rfl⟩) hsha
  case shaFold => exact exec_of_missing_flag ((checks_shaFold _).mpr rfl) hsha
  case expand => exact exec_of_missing_flag ((checks_hkdfExpand _).mpr ⟨hlen, h0, h1, h2, rfl⟩) hprk

end Sys2Proof.MissingFlag
end

section
/-! PROOF. The registers at the host port (10_state.md R31 to R41): what a read answers, that no read reaches
secret state (R46), and what full-strobe writes do. -/

namespace Sys2Proof.PortRegisters

open Sys2Proof.Machine Sys2Proof.Laws

/-! ### Reads and secret state -/

/-- The state with every piece of secret state (R46) at 0: `zeroize` but for the flags and the counter. -/
def hideSecrets (s : State) : State :=
  { s.zeroized with s0 := (Vector.replicate 16 0#32).set 12 s.s0[12], flags := s.flags }

/-- A read answers the same word with the secret state at 0. -/
theorem readValue_hideSecrets (s : State) (addr : BitVec 32) :
    (hideSecrets s).readValue addr = s.readValue addr := by
  unfold State.readValue
  rw [show (hideSecrets s).dbufSize = s.dbufSize from rfl]
  cases portTarget s.dbufSize addr with
  | ccCtr => simp [hideSecrets]
  | _ => rfl

/-- A read leaves the same HOSTERR with the secret state at 0. -/
theorem portRead_hideSecrets_hostErr (s : State) (addr : BitVec 32) :
    ((hideSecrets s).portRead addr).hostErr = (s.portRead addr).hostErr := by
  unfold State.portRead
  rw [show (hideSecrets s).dbufSize = s.dbufSize from rfl]
  cases portTarget s.dbufSize addr with
  | dbuf =>
    rw [show (hideSecrets s).busy = s.busy from rfl]
    cases s.busy <;> rfl
  | _ => rfl

/-- What a read answers is its value, whatever its side effect. -/
@[simp] theorem portRead_rdata (s : State) (addr : BitVec 32) :
    (s.portRead addr).rdata = s.readValue addr := by
  unfold State.portRead
  dsimp only
  split
  · split <;> rfl
  · rfl

/-- Settles O20: the two states are the same once their secret state is hidden. -/
theorem portReadsDoNotDependOnSecrets : Obligations.PortReadsDoNotDependOnSecrets := by
  intro s u addr hu hctr
  have hsame : hideSecrets u = hideSecrets s := by
    conv_lhs => rw [hu]
    simp [hideSecrets, State.zeroized, hctr]
  constructor
  · rw [portRead_rdata, portRead_rdata, ← readValue_hideSecrets, hsame, readValue_hideSecrets]
  · rw [← portRead_hideSecrets_hostErr, hsame, portRead_hideSecrets_hostErr]

/-! ### The register window -/

/-- Below 0x040 a port address selects the register of its word (R31). -/
theorem portTarget_register {size : Nat} {addr : BitVec 32} {k : Nat} (hk : addr.toNat / 4 = k)
    (hlt : k < 16) : portTarget size addr = registerAt k := by
  have hword : wordAddress addr = 4 * k := by rw [wordAddress, hk, Nat.mul_comm]
  simp only [portTarget, hword]
  rw [if_pos (by omega), Nat.mul_div_cancel_left k (by decide)]

/-- The ARG registers follow the others in the window (R31). -/
theorem registerAt_arg (n : Fin 8) : registerAt (8 + n.val) = .arg n := by
  fin_cases n <;> rfl

theorem registerAt_ne_dbuf (k off : Nat) : registerAt k ≠ .dbuf off := by
  unfold registerAt
  split <;> simp

/-- A read of a register changes nothing but the port's answer (R77). -/
theorem portRead_register {s : State} {addr : BitVec 32} (hlt : addr.toNat < 0x40) :
    s.portRead addr = { s with rdata := s.readValue addr } := by
  unfold State.portRead
  rw [portTarget_register rfl (by omega)]
  dsimp only
  split
  case h_1 off htarget => exact absurd htarget (registerAt_ne_dbuf _ off)
  case h_2 => rfl

/-! ### STATUS as a number -/

theorem bitWord_toNat (b : Bool) : (bitWord b).toNat = b.toNat := by
  cases b <;> rfl

/-- A field placed above the bits in use adds its value there (R36). -/
theorem toNat_or_shiftLeft {x y : Word} {k n : Nat} (hx : x.toNat = n) (hn : n < 2 ^ k)
    (hy : 2 ^ k * y.toNat < 2 ^ 32) : (x ||| y <<< k).toNat = n + 2 ^ k * y.toNat := by
  have hfit : y.toNat <<< k % 2 ^ 32 = y.toNat <<< k :=
    Nat.mod_eq_of_lt (by rwa [Nat.shiftLeft_eq, Nat.mul_comm])
  rw [BitVec.toNat_or, BitVec.toNat_shiftLeft, hfit, hx, Nat.or_comm, ← Nat.shiftLeft_add_eq_or_of_lt hn,
    Nat.shiftLeft_eq, Nat.mul_comm, Nat.add_comm]

/-- A flag placed above the bits in use. -/
theorem toNat_or_bit {x : Word} {k n : Nat} (b : Bool) (hx : x.toNat = n) (hn : n < 2 ^ k) (hk : k < 32) :
    (x ||| bitWord b <<< k).toNat = n + 2 ^ k * b.toNat := by
  have hpow : 2 ^ k < 2 ^ 32 := Nat.pow_lt_pow_right (by decide) hk
  have hfit : 2 ^ k * b.toNat < 2 ^ 32 :=
    lt_of_le_of_lt (mul_le_of_le_one_right (Nat.zero_le _) b.toNat_le) hpow
  rw [← bitWord_toNat] at hfit ⊢
  exact toNat_or_shiftLeft hx hn hfit

theorem statusWord_toNat (s : State) :
    s.statusWord.toNat =
      s.busy.toNat + 2 * s.done.toNat + 4 * s.hostErr.toNat + 256 * s.errCode.toNat +
      2 ^ 16 * s.flags.ccKeyed.toNat + 2 ^ 17 * s.flags.pKeyed.toNat +
      2 ^ 18 * s.flags.shaActive.toNat + 2 ^ 19 * s.flags.prkValid.toNat +
      2 ^ 20 * s.flags.xScalarValid.toNat + 2 ^ 21 * s.flags.xLadderActive.toNat := by
  have hcode : s.errCode.toNat < 8 := by cases s.errCode <;> decide
  have hcodeWord : (BitVec.ofNat 32 s.errCode.toNat).toNat = s.errCode.toNat :=
    Nat.mod_eq_of_lt (by omega)
  have h0 := bitWord_toNat s.busy
  have := s.busy.toNat_le; have := s.done.toNat_le; have := s.hostErr.toNat_le
  have h1 := toNat_or_bit (k := 1) s.done h0 (by omega) (by decide)
  have h2 := toNat_or_bit (k := 2) s.hostErr h1 (by omega) (by decide)
  have h8 := toNat_or_shiftLeft (k := 8) (y := BitVec.ofNat 32 s.errCode.toNat) h2 (by omega) (by omega)
  have := s.flags.ccKeyed.toNat_le; have := s.flags.pKeyed.toNat_le
  have := s.flags.shaActive.toNat_le; have := s.flags.prkValid.toNat_le
  have := s.flags.xScalarValid.toNat_le
  have h16 := toNat_or_bit (k := 16) s.flags.ccKeyed h8 (by omega) (by decide)
  have h17 := toNat_or_bit (k := 17) s.flags.pKeyed h16 (by omega) (by decide)
  have h18 := toNat_or_bit (k := 18) s.flags.shaActive h17 (by omega) (by decide)
  have h19 := toNat_or_bit (k := 19) s.flags.prkValid h18 (by omega) (by decide)
  have h20 := toNat_or_bit (k := 20) s.flags.xScalarValid h19 (by omega) (by decide)
  have h21 := toNat_or_bit (k := 21) s.flags.xLadderActive h20 (by omega) (by decide)
  rw [hcodeWord] at h21
  exact h21

/-- The number R300 gives an error code. -/
theorem errCode_toNat_of_mem {e : ErrCode} {code : Nat}
    (h : (e, code) ∈ [(ErrCode.ok, 0x00), (.opcode, 0x01), (.field, 0x02), (.length, 0x03),
      (.bounds, 0x04), (.overlap, 0x05), (.sequence, 0x06), (.auth, 0x07)]) : e.toNat = code := by
  cases e <;> simp [ErrCode.toNat] at h ⊢ <;> exact h.symm

/-- Settles O21: the register is that of the address's word, and `readValue` gives its value. -/
theorem registerReadsAnswerTheirValue : Obligations.RegisterReadsAnswerTheirValue := by
  intro s addr code hlt hcode
  refine ⟨_, rfl, ?_, ?_⟩
  · rw [portRead_rdata]
    exact portRead_register hlt
  · rw [portRead_rdata, ← errCode_toNat_of_mem hcode]
    unfold State.readValue
    refine ⟨fun hk => ?id, fun hk => ?version, fun hk => ?ctrl, fun hk => ?status, fun hk => ?cmd,
      fun hk => ?result, fun hk => ?dbufSize, fun hk => ?ccCtr, fun n hk => ?arg⟩
    all_goals rw [portTarget_register hk (by omega)]
    case ctrl => exact bitWord_toNat s.ie
    case status => exact statusWord_toNat s
    case result => exact bitWord_toNat s.result
    case arg => rw [registerAt_arg n]
    all_goals rfl

/-! ### Full-strobe writes -/

/-- A full-strobe write below 0x040 is the write to the register of its word (R87). -/
theorem portWrite_full_strobe {s : State} {addr : BitVec 32} {k : Nat} (d : BitVec 32)
    (hk : addr.toNat / 4 = k) (hlt : k < 16) :
    s.portWrite addr d 0xF#4 = s.writeRegister (registerAt k) d := by
  rw [State.portWrite, portTarget_register hk hlt]
  interval_cases k <;> rfl

/-- CTRL without SRST sets IE (R35). -/
theorem writeRegister_ctrl (s : State) {d : BitVec 32} (hsrst : d.getLsbD 1 = false) :
    s.writeRegister .ctrl d = { s with ie := d.getLsbD 0 } := by
  unfold State.writeRegister
  rw [hsrst]
  rfl

/-- STATUS is write 1 to clear in DONE and HOSTERR (R36). -/
theorem writeRegister_status (s : State) (d : BitVec 32) :
    s.writeRegister .status d = { s with
      done := if d.getLsbD 1 then false else s.done,
      hostErr := if d.getLsbD 2 then false else s.hostErr } := by
  unfold State.writeRegister
  cases d.getLsbD 1 <;> cases d.getLsbD 2 <;> rfl

/-- An idle ARG write stores its data (R41). -/
theorem writeRegister_arg {s : State} (hidle : s.busy = false) (n : Fin 8) (d : BitVec 32) :
    s.writeRegister (.arg n) d = { s with args := s.args.set n d } := by
  unfold State.writeRegister
  rw [hidle]
  rfl

/-- Settles O22: the register is that of the address's word, and `writeRegister` is its rule. -/
theorem registerWritesDoWhatTheirRuleSays : Obligations.RegisterWritesDoWhatTheirRuleSays := by
  intro s addr d
  refine ⟨fun hk hsrst => ?ctrl, fun hk => ?status, fun n hk hidle => ?arg⟩
  case ctrl => exact (portWrite_full_strobe d hk (by decide)).trans (writeRegister_ctrl s hsrst)
  case status => exact (portWrite_full_strobe d hk (by decide)).trans (writeRegister_status s d)
  case arg =>
    have hwrite : s.portWrite addr d 0xF#4 = { s with args := s.args.set n d } := by
      rw [portWrite_full_strobe d hk (by omega), registerAt_arg n, writeRegister_arg hidle]
    refine ⟨_, hwrite, rfl, Vector.getElem_set_self n.isLt, fun m hne => ?_⟩
    exact Vector.getElem_set_ne n.isLt m.isLt fun heq => hne (Fin.ext heq.symm)

end Sys2Proof.PortRegisters
end

section
/-! PROOF. R73, R301, R305: broken overlap rules. The rule is broken by the regions at two positions of the
opcode map, so each way to break it names those positions. -/

namespace Sys2Proof.Overlap

open Sys2Proof.Machine Sys2Proof.Laws

/-! ### Regions and checks -/

/-- Two non-empty regions that begin at one offset share it. -/
theorem not_apart_of_addr_eq {a b m n : Nat} (h : a = b) (hm : 0 < m) (hn : 0 < n) : ¬Apart a m b n := by
  simp only [Apart]
  omega

/-- Two outputs that share a byte: part (a) of R73. -/
theorem overlapBroken_of_outputs {c : Checks} {j k : Nat} {q r : Region} (hq : c.outs[j]? = some q)
    (hr : c.outs[k]? = some r) (hlt : j < k) (hshare : ¬Apart q.addr q.len r.addr r.len) :
    c.overlapBroken = true := by
  by_contra hbroken
  obtain ⟨houts, -⟩ := (overlapBroken_eq_false_iff c).mp (Bool.eq_false_of_not_eq_true hbroken)
  exact hshare (houts (q, j) (List.mem_zipIdx_iff_getElem?.mpr hq) (r, k)
    (List.mem_zipIdx_iff_getElem?.mpr hr) hlt)

/-- An input and an output that share a byte and are not the in-place pair on one region: part (b) of R73. -/
theorem overlapBroken_of_input_output {c : Checks} {j k : Nat} {r q : Region} (hr : c.ins[j]? = some r)
    (hq : c.outs[k]? = some q) (hpair : c.inPlace = some (j, k) → r ≠ q)
    (hshare : ¬Apart r.addr r.len q.addr q.len) : c.overlapBroken = true := by
  by_contra hbroken
  obtain ⟨-, hins⟩ := (overlapBroken_eq_false_iff c).mp (Bool.eq_false_of_not_eq_true hbroken)
  obtain ⟨hpos, heq⟩ | hapart := hins (r, j) (List.mem_zipIdx_iff_getElem?.mpr hr) (q, k)
    (List.mem_zipIdx_iff_getElem?.mpr hq)
  · exact hpair hpos heq
  · exact hshare hapart

/-- The overlap check stands after those of fields, lengths and bounds, and before that of the flags. -/
theorem exec_of_overlapBroken {i : Instr} {s : State} (hfield : (commandChecks i s).fieldOk = true)
    (hlength : (commandChecks i s).lengthOk = true)
    (hbounds : ∀ r ∈ (commandChecks i s).ins ++ (commandChecks i s).outs, Fits r.addr r.len s.dbufSize)
    (hbroken : (commandChecks i s).overlapBroken = true) : exec i s = .next (s.completedWith .overlap) := by
  have hfailure : checkFailure i s = some .overlap := by
    simp [checkFailure, Checks.failure, hfield, hlength, (inBounds_all_iff _ _).mpr hbounds, hbroken]
  exact exec_of_failure hfailure

/-! ### The ways to break the rule -/

/-- An output that shares a byte with an input on another region; an in-place pair needs one region. -/
theorem overlapBroken_of_distinct {c : Checks} {r q : Region} (hr : r ∈ c.ins) (hq : q ∈ c.outs)
    (hne : r ≠ q) (hshare : ¬Apart r.addr r.len q.addr q.len) : c.overlapBroken = true := by
  obtain ⟨j, hj⟩ := List.mem_iff_getElem?.mp hr
  obtain ⟨k, hk⟩ := List.mem_iff_getElem?.mp hq
  exact overlapBroken_of_input_output hj hk (fun _ => hne) hshare

/-- A command without an in-place pair has no output on an input. -/
theorem overlapBroken_of_no_inPlace {c : Checks} {r : Region} (hpair : c.inPlace = none) (hr : r ∈ c.ins)
    (hq : r ∈ c.outs) (hpos : 0 < r.len) : c.overlapBroken = true := by
  obtain ⟨j, hj⟩ := List.mem_iff_getElem?.mp hr
  obtain ⟨k, hk⟩ := List.mem_iff_getElem?.mp hq
  exact overlapBroken_of_input_output hj hk (by simp [hpair]) (not_apart_of_addr_eq rfl hpos hpos)

theorem inPlace_eq_none {i : Instr} (s : State)
    (hi : i ∈ [Instr.pMac, .sha256, .hmac, .hkdfExpand, .hkdf]) : (commandChecks i s).inPlace = none := by
  simp only [List.mem_cons, List.not_mem_nil, or_false] at hi
  obtain rfl | rfl | rfl | rfl | rfl := hi <;> rfl

/-- `x.keygen`: the two outputs share a byte, or the public key is on the random bytes, whose in-place
output is the other one. -/
theorem overlapBroken_xKeygen {s : State} (h : ¬Apart (s.arg 1) 32 (s.arg 2) 32 ∨ s.arg 0 = s.arg 2) :
    (commandChecks .xKeygen s).overlapBroken = true := by
  obtain hshare | haddr := h
  · exact overlapBroken_of_outputs (j := 0) (k := 1) rfl rfl (by decide) hshare
  · exact overlapBroken_of_input_output (j := 0) (k := 1) rfl rfl (by simp [commandChecks])
      (not_apart_of_addr_eq haddr (by simp) (by simp))

/-- `x25519`: the output is on the scalar; its in-place pair is with the u-coordinate. -/
theorem overlapBroken_x25519 {s : State} (h : s.arg 0 = s.arg 2) :
    (commandChecks .x25519 s).overlapBroken = true :=
  overlapBroken_of_input_output (j := 0) (k := 0) rfl rfl (by simp [commandChecks])
    (not_apart_of_addr_eq h (by simp) (by simp))

/-- `aead.enc`: the ciphertext and the tag share a byte. -/
theorem overlapBroken_aeadEnc_outputs {s : State} (h : ¬Apart (s.arg 6) (s.arg 5) (s.arg 7) 16) :
    (commandChecks .aeadEnc s).overlapBroken = true :=
  overlapBroken_of_outputs (j := 0) (k := 1) rfl rfl (by decide) h

/-- What the two AEAD commands have in common: key, nonce, aad, text, and the text's in-place pair. -/
theorem aead_positions {i : Instr} (s : State) (hi : i ∈ [Instr.aeadEnc, .aeadDec]) :
    (commandChecks i s).ins[0]? = some (s.fixed 0 32) ∧ (commandChecks i s).ins[1]? = some (s.fixed 1 12) ∧
      (commandChecks i s).ins[2]? = some (s.sized 2 3) ∧
      (commandChecks i s).outs[0]? = some (s.sized 6 5) ∧ (commandChecks i s).inPlace = some (3, 0) := by
  simp only [List.mem_cons, List.not_mem_nil, or_false] at hi
  obtain rfl | rfl := hi <;> exact ⟨rfl, rfl, rfl, rfl, rfl⟩

/-- An AEAD text output is on the key, the nonce or the aad; its in-place pair is with the text. -/
theorem overlapBroken_aead_text {i : Instr} {s : State} (hi : i ∈ [Instr.aeadEnc, .aeadDec])
    (hpos : 0 < s.arg 5)
    (h : (s.arg 5 = 32 ∧ s.arg 0 = s.arg 6) ∨ (s.arg 5 = 12 ∧ s.arg 1 = s.arg 6) ∨
      (s.arg 3 = s.arg 5 ∧ s.arg 2 = s.arg 6)) : (commandChecks i s).overlapBroken = true := by
  obtain ⟨hkey, hnonce, haad, hout, hpair⟩ := aead_positions s hi
  obtain ⟨-, haddr⟩ | ⟨-, haddr⟩ | ⟨hlen, haddr⟩ := h
  · exact overlapBroken_of_input_output hkey hout (by simp [hpair])
      (not_apart_of_addr_eq haddr (by simp) hpos)
  · exact overlapBroken_of_input_output hnonce hout (by simp [hpair])
      (not_apart_of_addr_eq haddr (by simp) hpos)
  · exact overlapBroken_of_input_output haad hout (by simp [hpair])
      (not_apart_of_addr_eq haddr (hlen.symm ▸ hpos : 0 < s.arg 3) hpos)

/-- `aead.dec`: the plaintext is on the tag. -/
theorem overlapBroken_aeadDec_tag {s : State} (hlen : s.arg 5 = 16) (haddr : s.arg 7 = s.arg 6) :
    (commandChecks .aeadDec s).overlapBroken = true :=
  overlapBroken_of_input_output (j := 4) (k := 0) rfl rfl (by simp [commandChecks])
    (not_apart_of_addr_eq haddr (by simp) (by simp [hlen]))

/-- `aead.enc`: the tag is on the aad or on the plaintext, whose in-place output is the ciphertext. -/
theorem overlapBroken_aeadEnc_tag {s : State}
    (h : (s.arg 3 = 16 ∧ s.arg 2 = s.arg 7) ∨ (s.arg 5 = 16 ∧ s.arg 4 = s.arg 7)) :
    (commandChecks .aeadEnc s).overlapBroken = true := by
  obtain ⟨hlen, haddr⟩ | ⟨hlen, haddr⟩ := h
  · exact overlapBroken_of_input_output (j := 2) (k := 1) rfl rfl (by simp [commandChecks])
      (not_apart_of_addr_eq haddr (by simp [hlen]) (by simp))
  · exact overlapBroken_of_input_output (j := 3) (k := 1) rfl rfl (by simp [commandChecks])
      (not_apart_of_addr_eq haddr (by simp [hlen]) (by simp))

/-- Settles O13: each case names two regions that share a byte and are no in-place pair on one region. -/
theorem overlapIsRefused : Obligations.OverlapIsRefused := by
  intro s i hfield hlength hbounds h
  refine exec_of_overlapBroken hfield hlength hbounds ?_
  obtain ⟨r, hr, q, hq, hne, hshare⟩ | ⟨rfl, h⟩ | ⟨rfl, h⟩ | ⟨rfl, h⟩ | ⟨hi, hpos, h⟩ | ⟨rfl, hlen, haddr⟩ |
    ⟨rfl, h⟩ | ⟨hi, r, hr, hq, hpos⟩ := h
  · exact overlapBroken_of_distinct hr hq hne hshare
  · exact overlapBroken_xKeygen h
  · exact overlapBroken_x25519 h
  · exact overlapBroken_aeadEnc_outputs h
  · exact overlapBroken_aead_text hi hpos h
  · exact overlapBroken_aeadDec_tag hlen haddr
  · exact overlapBroken_aeadEnc_tag h
  · exact overlapBroken_of_no_inPlace (inPlace_eq_none s hi) hr hq hpos

end Sys2Proof.Overlap
end

section
/-! PROOF. The DBUF window, ignored accesses and BUSY at the host port (10_state.md R42; 20_memory.md R74,
R77, R80, R87, R88): what each port address selects, then what an access to it does. -/

namespace Sys2Proof.PortAccesses

open Sys2Proof.Machine Sys2Proof.Laws Sys2Proof.PortRegisters

/-! ### The address map -/

/-- The word at an offset of the DBUF window (R78). -/
theorem portTarget_dbuf {size o : Nat} {addr : BitVec 32} (haddr : addr.toNat / 4 * 4 = 0x1000 + o)
    (ho : o < size) : portTarget size addr = .dbuf o := by
  have hword : wordAddress addr = 0x1000 + o := haddr
  simp only [portTarget, hword]
  rw [if_neg (by omega), if_pos (by omega), Nat.add_sub_cancel_left]

/-- From 0x040 to the DBUF window, and past the window, an address selects nothing (R42). -/
theorem portTarget_unmapped {size : Nat} {addr : BitVec 32}
    (h : (0x40 ≤ addr.toNat ∧ addr.toNat < 0x1000) ∨
      (0x1000 ≤ addr.toNat ∧ 0x1000 + size ≤ addr.toNat / 4 * 4)) :
    portTarget size addr = .unmapped := by
  have hword : wordAddress addr = 4 * (addr.toNat / 4) := Nat.mul_comm _ 4
  simp only [portTarget, hword]
  obtain ⟨hlo, hhi⟩ | ⟨hlo, hhi⟩ := h
  · rw [if_pos (by omega), Nat.mul_div_cancel_left _ (by decide)]
    obtain ⟨k, hk⟩ : ∃ k, addr.toNat / 4 = k + 16 := ⟨addr.toNat / 4 - 16, by omega⟩
    rw [hk]
    rfl
  · rw [if_neg (by omega), if_neg (by omega)]

/-- Every word below 0x040 is a register (R31). -/
theorem registerAt_ne_unmapped {k : Nat} (hk : k < 16) : registerAt k ≠ .unmapped := by
  interval_cases k <;> simp [registerAt]

/-! ### Accesses that are dropped or ignored -/

section

variable {s : State} {addr : BitVec 32}

/-- R88: a partial strobe on a register is ignored, whatever the register. -/
theorem portWrite_partial_strobe (hlt : addr.toNat < 0x40) (d : BitVec 32) {strobe : BitVec 4}
    (hstrobe : strobe ≠ 0xF#4) : s.portWrite addr d strobe = s.setHostErr := by
  rw [State.portWrite, portTarget_register rfl (by omega)]
  split
  case h_1 off htarget => exact absurd htarget (registerAt_ne_dbuf _ off)
  case h_2 htarget => exact absurd htarget (registerAt_ne_unmapped (by omega))
  case h_3 => exact if_neg hstrobe

theorem writeRegister_cmd_busy (hbusy : s.busy = true) (d : BitVec 32) :
    s.writeRegister .cmd d = s.setHostErr := if_pos hbusy

theorem writeRegister_arg_busy (hbusy : s.busy = true) (n : Fin 8) (d : BitVec 32) :
    s.writeRegister (.arg n) d = s.setHostErr := if_pos hbusy

/-- R87: CMD and the ARGs drop a write while BUSY. -/
theorem portWrite_cmd_arg_busy (hbusy : s.busy = true)
    (h : addr.toNat / 4 = 4 ∨ (8 ≤ addr.toNat / 4 ∧ addr.toNat / 4 ≤ 15)) (d : BitVec 32) :
    s.portWrite addr d 0xF#4 = s.setHostErr := by
  rw [portWrite_full_strobe d rfl (by omega)]
  obtain hcmd | ⟨hlo, hhi⟩ := h
  · rw [hcmd]
    exact writeRegister_cmd_busy hbusy d
  · obtain ⟨n, hn⟩ : ∃ n : Fin 8, addr.toNat / 4 = 8 + n.val :=
      ⟨⟨addr.toNat / 4 - 8, by omega⟩, by simp only; omega⟩
    rw [hn, registerAt_arg]
    exact writeRegister_arg_busy hbusy n d

/-- R42: ID, VERSION, RESULT, DBUF_SIZE and CC_CTR ignore a write. -/
theorem portWrite_read_only (h : addr.toNat / 4 ∈ [0, 1, 5, 6, 7]) (d : BitVec 32) :
    s.portWrite addr d 0xF#4 = s := by
  simp only [List.mem_cons, List.not_mem_nil, or_false] at h
  rw [portWrite_full_strobe d rfl (by omega)]
  obtain hk | hk | hk | hk | hk := h <;> rw [hk] <;> rfl

/-- R42: what is not mapped reads 0. -/
theorem portRead_unmapped (h : portTarget s.dbufSize addr = .unmapped) :
    s.portRead addr = { s with rdata := 0#32 } := by
  simp only [State.portRead, State.readValue, h]

theorem portWrite_unmapped (h : portTarget s.dbufSize addr = .unmapped) (d : BitVec 32)
    (strobe : BitVec 4) : s.portWrite addr d strobe = s := by
  simp only [State.portWrite, h]

/-! ### The DBUF window -/

/-- A DBUF write stores its lanes, or is dropped while BUSY (R87). -/
theorem portWrite_dbuf {o : Nat} (h : portTarget s.dbufSize addr = .dbuf o) (d : BitVec 32)
    (strobe : BitVec 4) :
    s.portWrite addr d strobe = if s.busy then s.setHostErr else s.storeLanes o d strobe := by
  simp only [State.portWrite, h]

/-- A DBUF read while BUSY answers 0 and sets HOSTERR (R87). -/
theorem portRead_dbuf_busy {o : Nat} (h : portTarget s.dbufSize addr = .dbuf o) (hbusy : s.busy = true) :
    s.portRead addr = { s with hostErr := true, rdata := 0#32 } := by
  simp only [State.portRead, State.readValue, h, hbusy, if_true, State.setHostErr]

/-- A DBUF read while idle answers the word at its offset (R74, R77). -/
theorem portRead_dbuf_idle {o : Nat} (h : portTarget s.dbufSize addr = .dbuf o) (hidle : s.busy = false) :
    s.portRead addr = { s with rdata := s.dbufWord o } := by
  simp [State.portRead, State.readValue, h, hidle]

end

/-! ### Byte lanes (R74) -/

/-- The bytes of a DBUF word, the lowest address in the lowest byte. -/
theorem dbufWord_toNat (s : State) (o : Nat) :
    (s.dbufWord o).toNat = (s.dbuf.readByte o).toNat + 2 ^ 8 * (s.dbuf.readByte (o + 1)).toNat +
      2 ^ 16 * (s.dbuf.readByte (o + 2)).toNat + 2 ^ 24 * (s.dbuf.readByte (o + 3)).toNat := by
  have hread : s.memRead o 4 = [s.dbuf.readByte o, s.dbuf.readByte (o + 1), s.dbuf.readByte (o + 2),
    s.dbuf.readByte (o + 3)] := rfl
  have hlt : leNat (s.memRead o 4) < 2 ^ 32 := by simpa using leNat_lt (s.memRead o 4)
  rw [State.dbufWord, BitVec.toNat_ofNat, Nat.mod_eq_of_lt hlt, hread]
  simp only [leNat]
  omega

/-- The store of one lane, when its strobe is 1: what `storeLanes` does for each of the four. -/
def storeLane (off : Nat) (data : BitVec 32) (strobe : BitVec 4) (t : State) (i : Nat) : State :=
  if strobe.getLsbD i then t.memWrite (off + i) [data.extractLsb' (8 * i) 8] else t

theorem storeLanes_eq_foldl (s : State) (off : Nat) (data : BitVec 32) (strobe : BitVec 4) :
    s.storeLanes off data strobe = (List.range 4).foldl (storeLane off data strobe) s := rfl

/-- One lane writes DBUF at its own byte address, if strobed. -/
theorem storeLane_spec {t : State} (hwf : t.dbuf.wf) (off : Nat) (data : BitVec 32) (strobe : BitVec 4)
    (i : Nat) :
    ∃ m : Memory, storeLane off data strobe t i = { t with dbuf := m } ∧ m.wf ∧
      ∀ k, m.readByte k = if k = off + i ∧ strobe.getLsbD i then data.extractLsb' (8 * i) 8
        else t.dbuf.readByte k := by
  unfold storeLane
  cases strobe.getLsbD i with
  | true => exact ⟨_, rfl, writeByte_wf hwf _ _, fun k => by simp [Memory.writeBytes, readByte_writeByte hwf]⟩
  | false => exact ⟨_, rfl, hwf, fun k => by simp⟩

/-- The first `n` lanes, each at its own byte address. -/
theorem foldl_storeLane_spec {s : State} (hwf : s.dbuf.wf) (off : Nat) (data : BitVec 32)
    (strobe : BitVec 4) (n : Nat) :
    ∃ m : Memory, (List.range n).foldl (storeLane off data strobe) s = { s with dbuf := m } ∧ m.wf ∧
      (∀ i < n, m.readByte (off + i) = if strobe.getLsbD i then data.extractLsb' (8 * i) 8
        else s.dbuf.readByte (off + i)) ∧
      s.dbuf.SameOutside m off n := by
  induction n with
  | zero => exact ⟨s.dbuf, rfl, hwf, fun i hi => absurd hi (Nat.not_lt_zero i), fun _ _ => rfl⟩
  | succ n ih =>
    obtain ⟨m, hfold, hm, hlanes, hout⟩ := ih
    obtain ⟨m', hlane, hm', hread⟩ := storeLane_spec (t := { s with dbuf := m }) hm off data strobe n
    refine ⟨m', ?_, hm', fun i hi => ?_, fun k hk => ?_⟩
    · rw [List.range_succ, List.foldl_append, hfold]
      exact hlane
    · rw [hread]
      obtain hlt | rfl := Nat.lt_succ_iff_lt_or_eq.mp hi
      · rw [if_neg (by omega)]
        exact hlanes i hlt
      · simp [hout (off + i) (.inr le_rfl)]
    · rw [hread, if_neg (by omega)]
      exact hout k (by omega)

/-! ### The obligations -/

/-- Settles O25, by the lanes of a store and the bytes of a word. -/
theorem dbufWordsAreLittleEndianLanes : Obligations.DbufWordsAreLittleEndianLanes := by
  intro s addr d strobe o hwf hidle haddr ho
  have htarget := portTarget_dbuf haddr ho
  obtain ⟨m, hstore, -, hlanes, hout⟩ := foldl_storeLane_spec hwf o d strobe 4
  have hwrite : s.portWrite addr d strobe = { s with dbuf := m } := by
    rw [portWrite_dbuf htarget, if_neg (by simp [hidle]), storeLanes_eq_foldl, hstore]
  exact ⟨⟨_, hwrite, rfl, fun i => hlanes i.val i.isLt, hout⟩,
    ⟨_, portRead_dbuf_idle htarget hidle, rfl, dbufWord_toNat s o⟩⟩

/-- Settles O23: `setHostErr` is the whole effect. -/
theorem busyAccessesAreDropped : Obligations.BusyAccessesAreDropped := by
  intro s addr d strobe hbusy
  refine ⟨fun h => portWrite_cmd_arg_busy hbusy h d, fun hlo hhi => ?_⟩
  have htarget : portTarget s.dbufSize addr = .dbuf (addr.toNat / 4 * 4 - 0x1000) :=
    portTarget_dbuf (by omega) (by omega)
  exact ⟨(portWrite_dbuf htarget d strobe).trans (if_pos hbusy), portRead_dbuf_busy htarget hbusy⟩

/-- Settles O24, by what the address selects. -/
theorem ignoredAccesses : Obligations.IgnoredAccesses := by
  intro s addr d strobe
  refine ⟨fun hlt hstrobe => portWrite_partial_strobe hlt d hstrobe, fun h => portWrite_read_only h d,
    fun h => ?_⟩
  have htarget := portTarget_unmapped h
  exact ⟨portRead_unmapped htarget, portWrite_unmapped htarget d strobe⟩

/-- An idle core's turn changes nothing (R317). -/
theorem coreTurn_idle {s : State} (hidle : s.busy = false) : coreTurn s = .next s := by
  simp [coreTurn, hidle]

/-- Taking the core's turn off the schedule keeps BUSY. -/
theorem coresTurn_busy {s u : State} (h : s.CoresTurn u) : u.busy = s.busy := by
  obtain ⟨-, rfl⟩ | ⟨rest, -, rfl⟩ := h <;> rfl

/-- Settles O60, by the step at a host access and the step at the core's turn. -/
theorem stepPerformsHostAccessesAndIdleTurns : Obligations.StepPerformsHostAccessesAndIdleTurns := by
  intro s u addr data strobe rest
  refine ⟨fun hs => ?read, fun hs => ?write, fun hturn hidle => ?idle⟩
  case read => rw [step_host hs, hostAccess_read]
  case write => rw [step_host hs, hostAccess_write]
  case idle => rw [step_coresTurn hturn, coreTurn_idle ((coresTurn_busy hturn).trans hidle)]

end Sys2Proof.PortAccesses
end

section
/-! PROOF. The encoding (30_encoding.md R100 to R107): decoding and encoding are inverse, because a row of the
opcode table and the zeros of its class's unused fields give back the word. What the core's turn does with
CMD follows. -/

namespace Sys2Proof.Encoding

open Sys2Proof.Machine Sys2Proof.Laws

/-! ### Decoding and encoding -/

/-- Decoding the word of a command gives the command; `sha.round` alone asks for well-formedness. -/
theorem decode_encode {i : Instr} (hwf : i.WellFormed) : decode (encode i) = .ok i := by
  cases i
  case shaRound t =>
    refine (decode_packWord 0x64 (by decide) 0 0 0 0 t).trans ?_
    exact if_pos hwf
  all_goals exact (decode_packWord _ (by decide) _ _ _ _ _).trans rfl

/-- What decodes to `i` has the row of `i`, its unused fields are zero, and `i` is well formed. -/
theorem row_of_decodeFields {op : Nat} {a b c d : Idx} {t : Fin 256} {i : Instr}
    (h : decodeFields op a b c d t = .ok i) :
    ∃ k, opcodeRow op a b c d t = some (k, i) ∧ unusedZero k a b c d t = true ∧ i.WellFormed := by
  unfold decodeFields at h
  split at h
  next => cases h
  next k j hrow =>
    split at h
    next hlegal =>
      cases h
      exact ⟨k, hrow, Bool.and_eq_true_iff.mp hlegal⟩
    next => cases h

/-- The word of a row's command is that of the fields the row was read at: of those, the ones its packing
leaves out are the unused ones, which are zero. -/
theorem encode_of_opcodeRow {op : Nat} {a b c d : Idx} {t : Fin 256} {k : FieldClass} {i : Instr}
    (hrow : opcodeRow op a b c d t = some (k, i)) (hzero : unusedZero k a b c d t = true) :
    encode i = packWord op a b c d t := by
  unfold opcodeRow at hrow
  split at hrow <;> cases hrow
  all_goals
    simp_all only [unusedZero, decide_eq_true_eq]
    rfl

/-- A word that decodes is the word of a well-formed command, the one it decodes to. -/
theorem wellFormed_and_encode_of_decode {w : Word} {i : Instr} (h : decode w = .ok i) :
    i.WellFormed ∧ encode i = w := by
  obtain ⟨k, hrow, hzero, hwf⟩ := row_of_decodeFields h
  exact ⟨hwf, (encode_of_opcodeRow hrow hzero).trans (packWord_fields w)⟩

/-- Settles O1: `decode_encode`, and a word that decodes is the packing of its row's fields. -/
theorem decodeInvertsEncode : Obligations.DecodeInvertsEncode :=
  ⟨fun _ => decode_encode, fun _ _ => wellFormed_and_encode_of_decode⟩

/-- Settles O2: each worked word is read by the decoder. -/
theorem workedEncodingsDecode : Obligations.WorkedEncodingsDecode :=
  ⟨rfl, rfl, rfl, rfl, rfl, rfl, rfl, rfl, rfl⟩

/-! ### Words that are no command -/

/-- The opcode table has no row exactly for the OP values R107 reserves. -/
theorem opcodeRow_eq_none_iff {op : Nat} (hop : op < 256) (a b c d : Idx) (t : Fin 256) :
    opcodeRow op a b c d t = none ↔ ReservedOp op := by
  unfold opcodeRow
  split
  case h_48 =>
    refine iff_of_true rfl ?_
    simp only [imp_false] at *
    omega
  all_goals exact iff_of_false (Option.some_ne_none _) (by decide)

theorem decode_eq_reservedOp_iff (w : Word) :
    decode w = .error .reservedOp ↔ ReservedOp (w.toNat % 256) := by
  have hop : CmdField.op w = w.toNat % 256 := by simp [CmdField.op, CmdField.bits]
  rw [← hop, ← opcodeRow_eq_none_iff (op_lt w) (CmdField.fa w) (CmdField.fb w) (CmdField.fc w)
    (CmdField.fd w) (CmdField.imm8 w), decode, decodeFields]
  split
  next hrow => simp [hrow]
  next hrow => split <;> simp [hrow]

/-- An assigned OP in a word that no well-formed command has. -/
theorem decode_eq_unusedField {w : Word} (hop : ¬ReservedOp (w.toNat % 256))
    (hw : ∀ i : Instr, i.WellFormed → encode i ≠ w) : decode w = .error .unusedField := by
  cases hd : decode w with
  | ok i =>
    obtain ⟨hwf, henc⟩ := wellFormed_and_encode_of_decode hd
    exact absurd henc (hw i hwf)
  | error e =>
    cases e with
    | reservedOp => exact absurd ((decode_eq_reservedOp_iff w).mp hd) hop
    | unusedField => rfl

/-! ### The core's turn -/

section

variable {s u : State}

theorem coreTurn_of_decode_ok {i : Instr} (hbusy : s.busy = true) (hd : decode s.cmd = .ok i) :
    coreTurn s = exec i s := by
  simp [coreTurn, State.fetch, hbusy, hd]

theorem coreTurn_of_decode_error {e : DecodeError} (hbusy : s.busy = true)
    (hd : decode s.cmd = .error e) : coreTurn s = .next (s.completedWith (decodeErrCode e)) := by
  simp [coreTurn, State.fetch, hbusy, hd, State.complete]

/-- Taking the core's turn off the schedule keeps CMD. -/
theorem coresTurn_cmd (h : s.CoresTurn u) : u.cmd = s.cmd := by
  obtain ⟨-, rfl⟩ | ⟨rest, -, rfl⟩ := h <;> rfl

/-- The step of a running command whose word is no command. -/
theorem step_of_decode_error {e : DecodeError} (hturn : s.CoresTurn u) (hbusy : s.busy = true)
    (hd : decode s.cmd = .error e) : step s = .next (u.completedWith (decodeErrCode e)) := by
  rw [step_coresTurn hturn]
  exact coreTurn_of_decode_error ((PortAccesses.coresTurn_busy hturn).trans hbusy)
    ((coresTurn_cmd hturn).symm ▸ hd)

end

/-- Settles O3, by what the decoder answers for the two kinds of word. -/
theorem illegalWordsCompleteWithTheirCode : Obligations.IllegalWordsCompleteWithTheirCode := by
  intro s u hturn hbusy
  exact ⟨fun hop => step_of_decode_error hturn hbusy ((decode_eq_reservedOp_iff s.cmd).mpr hop),
    fun hop hw => step_of_decode_error hturn hbusy (decode_eq_unusedField hop hw)⟩

/-- Settles O4: the step is the core's turn, which runs the decoded command. -/
theorem stepRunsDecodedCommand : Obligations.StepRunsDecodedCommand := by
  intro s i rest hbusy hd
  refine ⟨fun hs => ?explicit, fun hs => ?empty⟩
  case explicit =>
    rw [step_coresTurn (.inr ⟨rest, hs, rfl⟩)]
    exact coreTurn_of_decode_ok hbusy hd
  case empty =>
    rw [step_coresTurn (.inl ⟨hs, rfl⟩)]
    exact coreTurn_of_decode_ok hbusy hd

end Sys2Proof.Encoding
end

section
/-! PROOF. The regions of the opcode map (30_encoding.md R106): one out of bounds ends the command with
E_BOUNDS (20_memory.md R72), and no command stores outside its output regions. -/

namespace Sys2Proof.Regions

open Sys2Proof.Machine Sys2Proof.Laws Sys2Proof.Invariant

/-! ### Regions out of bounds -/

section

variable {i : Instr} {s : State} {r : Region}

/-- The regions the machine checks are those of the opcode map, row by row. -/
theorem commandChecks_regions_of_mem {a b c d : Idx} {n : Fin 256} {ins outs : List Region}
    (hrow : (i, ins, outs) ∈ opcodeMapRegions s a b c d n) :
    (commandChecks i s).ins = ins ∧ (commandChecks i s).outs = outs := by
  have hrows : (opcodeMapRegions s a b c d n).map
      (fun row => ((commandChecks row.1 s).ins, (commandChecks row.1 s).outs)) =
      (opcodeMapRegions s a b c d n).map Prod.snd := rfl
  exact Prod.mk.inj (List.map_inj_left.mp hrows _ hrow)

/-- A command with a region has no field check of its own; `sha.round`, which has one, has no region. -/
theorem fieldOk_of_region (hr : r ∈ (commandChecks i s).ins ++ (commandChecks i s).outs) :
    (commandChecks i s).fieldOk = true := by
  cases i
  case shaRound => simp [commandChecks] at hr
  all_goals rfl

/-- The length operands in range, for the three commands that have a range (R301). -/
theorem lengthOk_of_ranges (hacc : i = .pAcc → 1 ≤ s.arg 1 ∧ s.arg 1 ≤ 16)
    (hexpand : i = .hkdfExpand → s.arg 3 ≤ 8160) (hhkdf : i = .hkdf → s.arg 7 ≤ 8160) :
    (commandChecks i s).lengthOk = true := by
  cases i
  case pAcc => exact decide_eq_true (hacc rfl)
  case hkdfExpand => exact decide_eq_true (hexpand rfl)
  case hkdf => exact decide_eq_true (hhkdf rfl)
  all_goals rfl

/-- The bounds check stands after those of fields and lengths, and before those of overlaps and flags. -/
theorem exec_of_out_of_bounds (hfield : (commandChecks i s).fieldOk = true)
    (hlength : (commandChecks i s).lengthOk = true)
    (hr : r ∈ (commandChecks i s).ins ++ (commandChecks i s).outs)
    (hout : ¬Fits r.addr r.len s.dbufSize) : exec i s = .next (s.completedWith .bounds) := by
  have hbounds : (commandChecks i s).inBounds s.dbufSize = false :=
    Bool.eq_false_of_not_eq_true fun hall => hout ((inBounds_all_iff _ _).mp hall r hr)
  have hfailure : checkFailure i s = some .bounds := by
    simp [checkFailure, Checks.failure, hfield, hlength, hbounds]
  exact exec_of_failure hfailure

end

/-- Settles O12: the rows agree with the checks, and the bounds check fails. -/
theorem outOfBoundsRegionIsRefused : Obligations.OutOfBoundsRegionIsRefused := by
  intro s a b c d n i ins outs hrow
  obtain ⟨rfl, rfl⟩ := commandChecks_regions_of_mem hrow
  refine ⟨rfl, rfl, fun hacc hexpand hhkdf r hr hpos hout => ?_⟩
  have hnot : ¬Fits r.addr r.len s.dbufSize := by
    simp only [Fits]
    omega
  exact exec_of_out_of_bounds (fieldOk_of_region hr) (lengthOk_of_ranges hacc hexpand hhkdf) hr hnot

/-! ### Bytes outside the output regions -/

/-- Stores to regions leave alone a byte outside all of them. -/
theorem readByte_storeRegions_outside {m : Memory} (hwf : m.wf) {ws : List (Region × List Byte)} {k : Nat}
    (hout : ∀ w ∈ ws, k < w.1.addr ∨ w.1.addr + w.2.length ≤ k) :
    (storeRegions m ws).readByte k = m.readByte k :=
  (List.foldlRecOn (motive := fun m' : Memory => m'.wf ∧ m'.readByte k = m.readByte k) ws _ ⟨hwf, rfl⟩
    fun _ ⟨hwf', hk⟩ w hw =>
      ⟨writeBytes_wf hwf' _ _, (sameOutside_writeBytes hwf' _ _ k (hout w hw)).trans hk⟩).2

/-- Settles O18: past its checks a command stores to its output regions only, and else it stores nothing. -/
theorem bytesOutsideOutputRegionsAreKept : Obligations.BytesOutsideOutputRegionsAreKept := by
  intro i s t hwf h
  obtain ⟨e, -, rfl⟩ | hpass := exec_cases h
  · exact ⟨fun _ _ => rfl, fun _ => rfl⟩
  · obtain ⟨ws, hd, hws⟩ := exec_storesOutputs hpass h
    refine ⟨fun k hk => ?outside, fun hnone => ?none⟩
    case outside =>
      rw [hd]
      refine readByte_storeRegions_outside hwf fun w hw => ?_
      obtain ⟨hmem, hlen⟩ := hws w hw
      exact hlen ▸ hk w.1 hmem
    case none =>
      have hempty : ws = [] := List.eq_nil_iff_forall_not_mem.mpr fun w hw => by
        simpa [hnone] using (hws w hw).1
      rw [hd, hempty]
      rfl

end Sys2Proof.Regions
end

section
/-! PROOF. The control commands (40_control.md R130 to R133). -/

namespace Sys2Proof.Control

open Sys2Proof.Machine Sys2Proof.Laws

/-! ### memzero and ct.eq -/

section

variable {s : State}

/-- Two reads of one length give the same string exactly when they agree byte by byte. -/
theorem readBytes_eq_readBytes_iff (m : Memory) (a b n : Nat) :
    m.readBytes a n = m.readBytes b n ↔ ∀ i, i < n → m.readByte (a + i) = m.readByte (b + i) := by
  simp only [Memory.readBytes, List.map_inj_left, List.mem_range]

/-- Every byte of a region zeros were stored to reads 0. -/
theorem readByte_writeBytes_zeros {m : Memory} (hwf : m.wf) (a : Nat) {n i : Nat} (hi : i < n) :
    (m.writeBytes a (zeros n)).readByte (a + i) = 0#8 := by
  rw [holds_writeBytes hwf a (zeros n) i (by simpa using hi)]
  simp [zeros, hi]

/-- R132: on a region in bounds `memzero` stores zeros to it. -/
theorem exec_memzero_of_fits (hfits : Fits (s.arg 0) (s.arg 1) s.dbufSize) :
    exec .memzero s = .next ((s.memWrite (s.arg 0) (zeros (s.arg 1))).complete .ok) :=
  runCommand_of_pass ((checks_memzero s).mpr hfits)

/-- R133: on regions in bounds `ct.eq` sets RESULT to whether the strings read from them differ. -/
theorem exec_ctEq_of_fits (ha : Fits (s.arg 0) (s.arg 2) s.dbufSize)
    (hb : Fits (s.arg 1) (s.arg 2) s.dbufSize) :
    exec .ctEq s = .next ({ s with
      result := decide (s.memRead (s.arg 0) (s.arg 2) ≠ s.memRead (s.arg 1) (s.arg 2)) }.complete .ok) := by
  have hcompare := orBytes_xorBytes_eq_zero (s.memRead (s.arg 0) (s.arg 2))
    (s.memRead (s.arg 1) (s.arg 2)) (by simp)
  simp only [exec, execCtEq, runCommand_of_pass ((checks_ctEq s).mpr ⟨ha, hb⟩), ne_eq, hcompare]

end

/-- Settles O28: what zeros stored to a region read as, and the comparator of `ct.eq` byte by byte. -/
theorem memzeroAndCtEq : Obligations.MemzeroAndCtEq := by
  intro s
  refine ⟨fun hwf hfits => ⟨_, exec_memzero_of_fits hfits, rfl, ?zeroed, ?frame⟩,
    fun ha hb => ⟨_, exec_ctEq_of_fits ha hb, rfl, ?equal⟩⟩
  case zeroed => exact fun i hi => readByte_writeBytes_zeros hwf (s.arg 0) hi
  case frame => simpa using sameOutside_writeBytes hwf (s.arg 0) (zeros (s.arg 1))
  case equal =>
    rw [← readBytes_eq_readBytes_iff]
    exact decide_eq_false_iff_not.trans not_not

/-! ### nop and zeroize -/

/-- A command with nothing to check passes its checks. -/
theorem checkFailure_of_no_checks {i : Instr} {s : State} (h : commandChecks i s = {}) :
    checkFailure i s = none := by
  rw [checkFailure, h]
  rfl

/-- R130: `nop` completes the state as it is. -/
theorem exec_nop (s : State) : exec .nop s = .next (s.complete .ok) :=
  runCommand_of_pass (checkFailure_of_no_checks (i := .nop) (s := s) rfl)

/-- R131: `zeroize` completes the zeroized state. -/
theorem exec_zeroize (s : State) : exec .zeroize s = .next (s.zeroized.complete .ok) :=
  runCommand_of_pass (checkFailure_of_no_checks (i := .zeroize) (s := s) rfl)

/-- Settles O27: neither command has a check, and each word is read by the decoder. -/
theorem nopAndZeroize : Obligations.NopAndZeroize :=
  fun s => ⟨exec_nop s, exec_zeroize s, rfl, rfl, rfl, rfl⟩

end Sys2Proof.Control
end

section
/-! PROOF. The field commands (41_field.md R140 to R157): the residue each gives, the canonical encoding, and
Fermat's inverse. -/

namespace Sys2Proof.Field

open Sys2Proof.Machine Sys2Proof.Laws Sys2Proof.Control

/-! ### A field register after a write -/

section

variable (s : State) {a r : Idx} (v : Fe)

theorem setFe_fe_same : (s.setFe a v).fe[a] = v := by simp

theorem setFe_fe_of_ne (h : r ≠ a) : (s.setFe a v).fe[r] = s.fe[r] := by
  simpa using Vector.getElem_set_ne a.isLt r.isLt fun heq => h (Fin.ext heq.symm)

theorem setFe_self : s.setFe a s.fe[a] = s := by
  simp [State.setFe]

end

/-- A command whose checks pass and whose body writes FE[A] completes with OK, with the value written in FE[A]
and nothing else changed. -/
theorem exec_of_setFe {i : Instr} {s : State} {a : Idx} {v : Fe} {n : Nat}
    (hexec : exec i s = runCommand i s (s.setFe a v)) (hpass : checkFailure i s = none) (hv : v.val = n) :
    ∃ t, exec i s = .next t ∧ t = { s.completedWith .ok with fe := t.fe } ∧ t.fe[a].val = n ∧
      ∀ r : Idx, r ≠ a → t.fe[r] = s.fe[r] :=
  ⟨_, hexec.trans (runCommand_of_pass hpass), rfl, (congrArg Fin.val (setFe_fe_same s v)).trans hv,
    fun _ hr => setFe_fe_of_ne s v hr⟩

/-- The same for a command with nothing to check, which completes so in every state. -/
theorem exec_of_setFe_of_no_checks {i : Instr} {s : State} {a : Idx} {v : Fe} {n : Nat}
    (hexec : exec i s = runCommand i s (s.setFe a v)) (hchecks : commandChecks i s = {}) (hv : v.val = n) :
    ∃ t, exec i s = .next t ∧ t = { s.completedWith .ok with fe := t.fe } ∧ t.fe[a].val = n ∧
      ∀ r : Idx, r ≠ a → t.fe[r] = s.fe[r] :=
  exec_of_setFe hexec (checkFailure_of_no_checks hchecks) hv

/-- A command whose checks pass and whose body stores `n` bytes completes with OK; the region then holds them,
and nothing else is changed. -/
theorem exec_of_memWrite {i : Instr} {s : State} {a n : Nat} {bs : List Byte} (hwf : s.dbuf.wf)
    (hexec : exec i s = runCommand i s (s.memWrite a bs)) (hpass : checkFailure i s = none)
    (hlen : bs.length = n) :
    ∃ t, exec i s = .next t ∧ t = { s.completedWith .ok with dbuf := t.dbuf } ∧
      t.dbuf.readBytes a n = bs ∧ s.dbuf.SameOutside t.dbuf a n := by
  subst hlen
  exact ⟨_, hexec.trans (runCommand_of_pass hpass), rfl, readBytes_writeBytes hwf a bs,
    sameOutside_writeBytes hwf a bs⟩

/-! ### Loads and stores -/

theorem fromBytes_val (bs : List Byte) : (fromBytes bs).val = leNat bs % 2 ^ 255 % p := rfl

theorem p_lt_two_pow_255 : p < 2 ^ 255 := by decide

/-- R143: the encoding is of the residue itself, for p is below 256^32. -/
theorem leNat_toBytes (v : Fe) : leNat (toBytes v) = v.val := by
  have hlt : v.val < 256 ^ 32 := lt_trans v.isLt (by decide)
  rw [toBytes, leNat_leBytes, Nat.mod_eq_of_lt hlt]

/-- R157: encoding undoes decoding on a canonical string. -/
theorem toBytes_fromBytes {bs : List Byte} (hlen : bs.length = 32) (hcanon : leNat bs < p) :
    toBytes (fromBytes bs) = bs := by
  have hval : (fromBytes bs).val = leNat bs := by
    rw [fromBytes_val, Nat.mod_eq_of_lt (hcanon.trans p_lt_two_pow_255), Nat.mod_eq_of_lt hcanon]
  rw [toBytes, hval, ← hlen, leBytes_leNat]

/-- R157: the canonical encoding of what was loaded from `x`, stored at `y`, is the string at `x`. -/
theorem readBytes_writeBytes_toBytes_fromBytes {m : Memory} (hwf : m.wf) (x y : Nat)
    (hcanon : leNat (m.readBytes x 32) < p) :
    (m.writeBytes y (toBytes (fromBytes (m.readBytes x 32)))).readBytes y 32 = m.readBytes x 32 := by
  have hread := readBytes_writeBytes hwf y (m.readBytes x 32)
  rw [readBytes_length] at hread
  rw [toBytes_fromBytes (readBytes_length m x 32) hcanon, hread]

section

variable {s : State}

/-- R144: `fe.load` on a region in bounds. -/
theorem exec_feLoad_of_fits (a : Idx) (hfits : s.arg 0 + 32 ≤ s.dbufSize) :
    exec (.feLoad a) s = .next ((s.setFe a (fromBytes (s.memRead (s.arg 0) 32))).complete .ok) :=
  runCommand_of_pass ((checks_feLoad s a).mpr hfits)

/-- R145: `fe.store` on a region in bounds. -/
theorem exec_feStore_of_fits (b : Idx) (hfits : s.arg 0 + 32 ≤ s.dbufSize) :
    exec (.feStore b) s = .next ((s.memWrite (s.arg 0) (toBytes s.fe[b])).complete .ok) :=
  runCommand_of_pass ((checks_feStore s b).mpr hfits)

/-- A sequence whose first command completes goes on from the state it leaves. -/
theorem runSeq_cons {t : State} {a : Vector Word 8} {i : Instr} {rest : List (Vector Word 8 × Instr)}
    (h : exec i { s with args := a } = .next t) : runSeq ((a, i) :: rest) s = runSeq rest t := by
  rw [runSeq, h]

/-- `fe.load` then `fe.store` of one register stores the canonical encoding of what was loaded. -/
theorem runSeq_feLoad_feStore (r : Idx) {a a' : Vector Word 8} (hload : a[0].toNat + 32 ≤ s.dbufSize)
    (hstore : a'[0].toNat + 32 ≤ s.dbufSize) :
    ∃ t, runSeq [(a, .feLoad r), (a', .feStore r)] s = .next t ∧
      t.dbuf = s.dbuf.writeBytes a'[0].toNat
        (toBytes (fromBytes (s.dbuf.readBytes a[0].toNat 32))) := by
  refine ⟨_, (runSeq_cons (exec_feLoad_of_fits r hload)).trans
    (runSeq_cons (exec_feStore_of_fits r hstore)), ?_⟩
  simp [State.arg, State.memRead]

end

/-- Settles O29: `fe.load` writes one register, `fe.store` one region with the encoding of a residue, and the
two encodings undo each other on a canonical string. -/
theorem fieldLoadAndStore : Obligations.FieldLoadAndStore := by
  intro s
  refine ⟨fun a hfits => ?load, fun b hwf hfits => ?store, fun r a a' hwf hload hstore hcanon => ?trip⟩
  case load => exact exec_of_setFe rfl ((checks_feLoad s a).mpr hfits) (fromBytes_val _)
  case store =>
    obtain ⟨t, hexec, hframe, hread, houtside⟩ := exec_of_memWrite hwf rfl
      ((checks_feStore s b).mpr hfits) (toBytes_length s.fe[b])
    exact ⟨t, hexec, hframe, by rw [hread, leNat_toBytes], houtside⟩
  case trip =>
    obtain ⟨t, hrun, hdbuf⟩ := runSeq_feLoad_feStore r hload hstore
    exact ⟨t, hrun, hdbuf ▸ readBytes_writeBytes_toBytes_fromBytes hwf _ _ hcanon⟩

/-! ### Exact residues -/

/-- R146: a 32-bit word is below p, so `fe.seti` does not reduce it. -/
theorem feOf_arg_val (s : State) (n : Fin 8) : (feOf (s.arg n)).val = s.arg n :=
  Nat.mod_eq_of_lt (lt_trans s.args[n].isLt (by decide))

/-- R149: the residue of the difference, which may be negative. -/
theorem feSub_val_int (a b : Fe) : ((feSub a b).val : Int) = ((a.val : Int) - (b.val : Int)) % (p : Int) := by
  have hadd : (a.val : Int) + ((p : Int) - (b.val : Int)) = a.val - b.val + p := by ring
  rw [feSub_val, Int.natCast_emod, Nat.cast_add, Nat.cast_sub b.isLt.le, hadd, Int.add_emod_right]

section

variable {s : State} (a b : Idx)

/-- R154: the condition is ARG0[0]. -/
theorem exec_feCswap :
    exec (.feCswap a b) s =
      .next (if s.arg 0 % 2 = 1 then ((s.setFe a s.fe[b]).setFe b s.fe[a]).complete .ok
        else s.complete .ok) := by
  have hbit : s.args[0].getLsbD 0 = decide (s.arg 0 % 2 = 1) := Nat.testBit_zero _
  have hpass : checkFailure (.feCswap a b) s = none := checkFailure_of_no_checks rfl
  by_cases hodd : s.arg 0 % 2 = 1
  · simp only [exec, execFeCswap, hbit, runCommand_of_pass hpass, hodd, decide_true, cswap_true, if_true]
  · simp only [exec, execFeCswap, hbit, runCommand_of_pass hpass, hodd, decide_false, cswap_false, if_false,
      setFe_self]

/-- R154: the exchange leaves FE[B] in FE[A], FE[A] in FE[B], for A = B too. -/
theorem setFe_exchange :
    ((s.setFe a s.fe[b]).setFe b s.fe[a]).fe[a] = s.fe[b] ∧
      ((s.setFe a s.fe[b]).setFe b s.fe[a]).fe[b] = s.fe[a] := by
  refine ⟨?_, setFe_fe_same _ _⟩
  by_cases h : a = b
  · subst h
    exact setFe_fe_same _ _
  · rw [setFe_fe_of_ne _ _ h, setFe_fe_same]

end

/-- Settles O30: each command's body writes FE[A] with the residue of its rule, computed before the write. -/
theorem fieldCommandsGiveExactResidues : Obligations.FieldCommandsGiveExactResidues := by
  intro s a b c
  refine ⟨fun i v hi => ?residue, ?cswap⟩
  case residue =>
    obtain ⟨rfl, rfl⟩ | ⟨rfl, rfl⟩ | ⟨rfl, rfl⟩ | ⟨rfl, hv⟩ | ⟨rfl, rfl⟩ | ⟨rfl, rfl⟩ | ⟨rfl, rfl⟩ := hi
    · exact exec_of_setFe_of_no_checks rfl rfl (feOf_arg_val s 0)
    · exact exec_of_setFe_of_no_checks rfl rfl rfl
    · exact exec_of_setFe_of_no_checks rfl rfl (feAdd_val _ _)
    · exact exec_of_setFe_of_no_checks rfl rfl (Int.ofNat_inj.mp ((feSub_val_int _ _).trans hv.symm))
    · exact exec_of_setFe_of_no_checks rfl rfl (feMul_val _ _)
    · exact exec_of_setFe_of_no_checks rfl rfl (feMul_val _ _)
    · exact exec_of_setFe_of_no_checks rfl rfl (feMulA24_val _)
  case cswap =>
    refine ⟨_, exec_feCswap a b, ?_⟩
    split
    case isTrue hodd =>
      refine ⟨rfl, fun heven => absurd heven (by omega), fun _ => setFe_exchange a b, fun r hra hrb => ?_⟩
      exact (setFe_fe_of_ne _ _ hrb).trans (setFe_fe_of_ne _ _ hra)
    case isFalse heven => exact ⟨rfl, fun _ => rfl, fun hodd => absurd hodd heven, fun _ _ _ => rfl⟩

/-! ### The inverse -/

/-- R153: 255 squarings reach the exponent p − 2. -/
theorem feInv_val (z : Fe) : (feInv z).val = z.val ^ (p - 2) % p :=
  fePow_val z 255 (p - 2) (by decide)

/-- Fermat: modulo a prime q the power q − 2 inverts what is not 0. -/
theorem mul_pow_sub_two_mod {q z : Nat} (hq : q.Prime) (hz : z ≠ 0) (hlt : z < q) :
    z * (z ^ (q - 2) % q) % q = 1 := by
  have hcoprime : Nat.Coprime z q := (Nat.coprime_of_lt_prime hz hlt hq).symm
  have hfermat : z ^ (q - 1) % q = 1 % q := Nat.totient_prime hq ▸ Nat.ModEq.pow_totient hcoprime
  have hexp : q - 2 + 1 = q - 1 := by
    have := hq.two_le
    omega
  rw [Nat.mul_mod_mod, ← pow_succ', hexp, hfermat, Nat.mod_eq_of_lt hq.one_lt]

/-- Settles O31, by repeated squaring and Fermat's little theorem for the prime p. -/
theorem feInvIsThePowerAndInverts : Obligations.FeInvIsThePowerAndInverts := by
  intro s a b
  obtain ⟨t, hexec, hframe, hval, hregs⟩ := exec_of_setFe_of_no_checks (i := .feInv a b) (s := s)
    rfl rfl (feInv_val s.fe[b])
  refine ⟨t, hexec, hframe, hval, fun hz => ?_, hregs⟩
  rw [hval]
  exact mul_pow_sub_two_mod p_prime hz s.fe[b].isLt

end Sys2Proof.Field
end

section
/-! PROOF. X25519 (42_x25519.md R170 to R180): the clamped scalar bit by bit, one ladder step in GF(p), what
each command leaves, and the staged ladder: a run of stage commands carries the ladder of R173 along. -/

namespace Sys2Proof.X25519

open Sys2Proof.Machine Sys2Proof.Laws Sys2Proof.Control Sys2Proof.Field

/-! ### The clamped scalar (R170) -/

/-- Bit n of a little-endian number is bit n mod 8 of byte n/8 (R11). -/
theorem leNat_testBit (bs : List Byte) (n : Nat) :
    (leNat bs).testBit n = (bs.getD (n / 8) 0#8).getLsbD (n % 8) := by
  induction bs generalizing n with
  | nil => simp [leNat]
  | cons b bs ih =>
    rw [leNat, Nat.add_comm, show 256 = 2 ^ 8 from rfl, Nat.testBit_two_pow_mul_add _ b.isLt]
    split
    case isTrue hlow => rw [Nat.div_eq_of_lt hlow, Nat.mod_eq_of_lt hlow]; rfl
    case isFalse hhigh =>
      rw [ih, show n / 8 = (n - 8) / 8 + 1 by omega, show n % 8 = (n - 8) % 8 by omega,
        List.getD_cons_succ]

/-- Clamping writes bytes 0 and 31 only. -/
theorem clamp_getD {k : List Byte} (hk : k.length = 32) {i : Nat} (hi : i < 32) :
    (clamp k).getD i 0#8 =
      if i = 0 then k.getD i 0#8 &&& 0xF8#8
      else if i = 31 then (k.getD i 0#8 &&& 0x7F#8) ||| 0x40#8 else k.getD i 0#8 := by
  rw [List.getD_eq_getElem k _ (by omega), List.getD_eq_getElem (clamp k) _ (by simp [hk, hi])]
  simp only [clamp, List.getElem_modify]
  by_cases h0 : i = 0
  · subst h0
    rfl
  by_cases h31 : i = 31
  · subst h31
    rfl
  rw [if_neg h0, if_neg h31, if_neg (Ne.symm h31), if_neg (Ne.symm h0)]

/-- The mask on byte 0 keeps bits 3 to 7 (R170). -/
theorem clampLowMask_getLsbD : ∀ j < 8, (0xF8#8).getLsbD j = decide (3 ≤ j) := by decide

/-- The masks on byte 31 keep bits 0 to 6 and set bit 6 (R170). -/
theorem clampHighMasks_getLsbD :
    ∀ j < 8, (0x7F#8).getLsbD j = decide (j ≠ 7) ∧ (0x40#8).getLsbD j = decide (j = 6) := by decide

/-- R170: clamping, bit by bit; bit n stands in byte n/8, so bytes 0 and 31 hold bits 0 to 7 and 248 to 255. -/
theorem clampedScalar_getLsbD {k : List Byte} (hk : k.length = 32) {n : Nat} (hn : n < 256) :
    (clampedScalar k).getLsbD n =
      if n < 3 ∨ n = 255 then false else if n = 254 then true
      else (k.getD (n / 8) 0#8).getLsbD (n % 8) := by
  have hj : n % 8 < 8 := Nat.mod_lt _ (by decide)
  obtain ⟨h7F, h40⟩ := clampHighMasks_getLsbD _ hj
  rw [clampedScalar, BitVec.getLsbD_ofNat, leNat_testBit, clamp_getD hk (by omega)]
  split
  case isTrue hlow =>
    rw [BitVec.getLsbD_and, clampLowMask_getLsbD _ hj]
    grind
  case isFalse =>
    split
    case isTrue hhigh =>
      rw [BitVec.getLsbD_or, BitVec.getLsbD_and, h7F, h40]
      grind
    case isFalse => grind

/-! ### The ladder in FE[0..4] and SWAP (R22) -/

section

variable (s : State) (l : Ladder)

/-- The five registers the ladder stands in. -/
theorem setLadder_fe_values :
    (s.setLadder l).fe[0] = l.x1 ∧ (s.setLadder l).fe[1] = l.x2 ∧ (s.setLadder l).fe[2] = l.z2 ∧
      (s.setLadder l).fe[3] = l.x3 ∧ (s.setLadder l).fe[4] = l.z3 := by
  simp

theorem setLadder_fe_getElem (r : Idx) :
    (s.setLadder l).fe[r] =
      if r = 0 then l.x1 else if r = 1 then l.x2 else if r = 2 then l.z2
      else if r = 3 then l.x3 else if r = 4 then l.z3 else s.fe[r] := by
  fin_cases r <;> simp

/-- No other register is one of the ladder's. -/
theorem setLadder_fe_of_five_le {r : Idx} (hr : 5 ≤ r.val) : (s.setLadder l).fe[r] = s.fe[r] := by
  rw [setLadder_fe_getElem]
  grind

/-- The ladder written is the ladder read back. -/
theorem ladder_setLadder : (s.setLadder l).ladder = l := by
  simp only [State.ladder, setLadder_fe_values, setLadder_swap]

end

/-! ### One ladder step in GF(p) (R172) -/

/-- A field element in GF(p). -/
def residue (a : Fe) : ZMod p := a.val

section

variable (a b : Fe)

@[simp] theorem residue_feAdd : residue (feAdd a b) = residue a + residue b := by
  simp only [residue, feAdd_val, ZMod.natCast_mod, Nat.cast_add]

@[simp] theorem residue_feSub : residue (feSub a b) = residue a - residue b := by
  simp only [residue, feSub_val, ZMod.natCast_mod, Nat.cast_add, Nat.cast_sub b.isLt.le, ZMod.natCast_self]
  ring

@[simp] theorem residue_feMul : residue (feMul a b) = residue a * residue b := by
  simp only [residue, feMul_val, ZMod.natCast_mod, Nat.cast_mul]

@[simp] theorem residue_feMulA24 : residue (feMulA24 a) = 121665 * residue a := by
  simp only [residue, feMulA24_val, ZMod.natCast_mod, Nat.cast_mul, Nat.cast_ofNat]

theorem cswap_eq (c : Bool) : cswap c a b = (if c then b else a, if c then a else b) := by
  cases c <;> rfl

end

/-- R172: what one step leaves in the two pairs. -/
theorem residue_ladderStep (l : Ladder) (kt : Bool) :
    let c := l.swap ^^ kt
    let x2 := if c then residue l.x3 else residue l.x2
    let z2 := if c then residue l.z3 else residue l.z2
    let x3 := if c then residue l.x2 else residue l.x3
    let z3 := if c then residue l.z2 else residue l.z3
    let aa := (x2 + z2) ^ 2
    let bb := (x2 - z2) ^ 2
    let e := aa - bb
    let da := (x3 - z3) * (x2 + z2)
    let cb := (x3 + z3) * (x2 - z2)
    residue (ladderStep l kt).x2 = aa * bb ∧ residue (ladderStep l kt).z2 = e * (aa + 121665 * e) ∧
      residue (ladderStep l kt).x3 = (da + cb) ^ 2 ∧
      residue (ladderStep l kt).z3 = residue l.x1 * (da - cb) ^ 2 := by
  cases hc : l.swap ^^ kt <;> simp [ladderStep, hc, pow_two]

/-! ### The commands -/

section

variable {s : State}

/-- R174: `x.ldscalar` on a region in bounds. -/
theorem exec_xLdscalar_of_fits (hfits : s.arg 0 + 32 ≤ s.dbufSize) :
    exec .xLdscalar s = .next ({ s with
      scalar := clampedScalar (s.memRead (s.arg 0) 32)
      flags := { s.flags with xScalarValid := true } }.complete .ok) :=
  runCommand_of_pass ((checks_xLdscalar s).mpr hfits)

/-- R175: `x.init` in every state. -/
theorem exec_xInit (b : Idx) :
    exec (.xInit b) s = .next ({ s.setLadder (ladderInit s.fe[b]) with
      flags := { s.flags with xLadderActive := true } }.complete .ok) :=
  runCommand_of_pass (checkFailure_of_no_checks (i := .xInit b) (s := s) rfl)

/-- R176: `x.step` with both flags set. -/
theorem exec_xStep_of_flags (n : Fin 256) (hvalid : s.flags.xScalarValid = true)
    (hactive : s.flags.xLadderActive = true) :
    exec (.xStep n) s =
      .next ((s.setLadder (ladderStep s.ladder (s.scalar.getLsbD n))).complete .ok) :=
  runCommand_of_pass ((checks_xStep s n).mpr ⟨hvalid, hactive⟩)

/-- R177: `x.finish` with X_LADDER_ACTIVE set. -/
theorem exec_xFinish_of_active (a : Idx) (hactive : s.flags.xLadderActive = true) :
    exec (.xFinish a) s = .next
      ({ (s.setLadder (ladderSettle s.ladder)).setFe a (ladderOut (ladderSettle s.ladder)) with
        scalar := 0#256, swap := false
        flags := { s.flags with xScalarValid := false, xLadderActive := false } }.complete .ok) :=
  runCommand_of_pass ((checks_xFinish s a).mpr hactive)

end

/-- The starting values 1 and 0 of R175 are reduced already. -/
theorem feOf_one_val : (feOf 1).val = 1 := Nat.mod_eq_of_lt (by decide)

theorem feOf_zero_val : (feOf 0).val = 0 := Nat.zero_mod p

/-- Settles O32: the bits of the clamped scalar, and the registers of `ladderInit`. -/
theorem ldscalarClampsAndInitStarts : Obligations.LdscalarClampsAndInitStarts := by
  intro s
  refine ⟨fun hfits => ⟨_, exec_xLdscalar_of_fits hfits, rfl, fun n hn => ?bits⟩, fun b => ?init⟩
  case bits =>
    rw [← readBytes_getD s.dbuf (s.arg 0) 32 (n / 8) (by omega)]
    exact clampedScalar_getLsbD (readBytes_length _ _ _) hn
  case init =>
    obtain ⟨hx1, hx2, hz2, hx3, hz3⟩ := setLadder_fe_values s (ladderInit s.fe[b])
    exact ⟨_, exec_xInit b, rfl, hx1, (congrArg Fin.val hx2).trans feOf_one_val,
      (congrArg Fin.val hz2).trans feOf_zero_val, hx3, (congrArg Fin.val hz3).trans feOf_one_val,
      fun r hr => setLadder_fe_of_five_le s _ hr⟩

/-- Settles O33: the registers of `ladderStep`, whose field operations are those of GF(p). -/
theorem ladderStepFormulas : Obligations.LadderStepFormulas := by
  intro s n hvalid hactive
  obtain ⟨hx1, hx2, hz2, hx3, hz3⟩ := setLadder_fe_values s (ladderStep s.ladder (s.scalar.getLsbD n))
  obtain ⟨hfx2, hfz2, hfx3, hfz3⟩ := residue_ladderStep s.ladder (s.scalar.getLsbD n)
  exact ⟨_, exec_xStep_of_flags n hvalid hactive, rfl, ⟨rfl, hx1, (congrArg residue hx2).trans hfx2,
    (congrArg residue hz2).trans hfz2, (congrArg residue hx3).trans hfx3,
    (congrArg residue hz3).trans hfz3⟩, fun r hr => setLadder_fe_of_five_le s _ hr⟩

/-- Settles O34: `ladderSettle` exchanges the pairs, and FE[A] is written over what it leaves. -/
theorem finishDividesAndClears : Obligations.FinishDividesAndClears := by
  intro s a hactive
  refine ⟨_, exec_xFinish_of_active a hactive, rfl, ?quotient, fun r hr => ?others⟩
  case quotient =>
    simp [ladderOut, ladderSettle, State.ladder, cswap_eq, feInv_val]
  case others =>
    refine (setFe_fe_of_ne (s.setLadder (ladderSettle s.ladder)) _ hr).trans ?_
    rw [setLadder_fe_getElem]
    obtain rfl | h0 := eq_or_ne r 0
    · rfl
    · simp [h0, ladderSettle, State.ladder, cswap_eq]

/-- A command whose checks pass and whose body stores two strings of 32 bytes to regions that are apart completes
with OK; the regions then hold them, and nothing else is changed. -/
theorem exec_of_memWrite_memWrite {i : Instr} {s : State} {a b : Nat} {bs cs : List Byte} (hwf : s.dbuf.wf)
    (hexec : exec i s = runCommand i s ((s.memWrite a bs).memWrite b cs)) (hpass : checkFailure i s = none)
    (hbs : bs.length = 32) (hcs : cs.length = 32) (hapart : a + 32 ≤ b ∨ b + 32 ≤ a) :
    ∃ t, exec i s = .next t ∧ t = { s.completedWith .ok with dbuf := t.dbuf } ∧
      t.dbuf.readBytes a 32 = bs ∧ t.dbuf.readBytes b 32 = cs ∧
      ∀ k, (k < a ∨ a + 32 ≤ k) → (k < b ∨ b + 32 ≤ k) → t.dbuf.readByte k = s.dbuf.readByte k := by
  have hwf' := writeBytes_wf hwf a bs
  refine ⟨_, hexec.trans (runCommand_of_pass hpass), rfl, ?first, ?second, fun k hka hkb => ?outside⟩
  case first =>
    rw [complete_dbuf, memWrite_dbuf, memWrite_dbuf, readBytes_writeBytes_of_disjoint hwf' (hcs ▸ hapart), ← hbs]
    exact readBytes_writeBytes hwf a bs
  case second => exact hcs ▸ readBytes_writeBytes hwf' b cs
  case outside =>
    exact (sameOutside_writeBytes hwf' b cs k (hcs ▸ hkb)).trans
      (sameOutside_writeBytes hwf a bs k (hbs ▸ hka))

/-- Settles O35: `x25519` stores one string and `x.keygen` two, computed before the first store. -/
theorem scalarMultiplicationWritesItsOutputs : Obligations.ScalarMultiplicationWritesItsOutputs := by
  intro s hwf h0 h1 h2
  refine ⟨fun hku hu => ?x25519, fun hk hkp hpp => ?keygen⟩
  case x25519 =>
    exact exec_of_memWrite hwf rfl ((checks_x25519 s).mpr ⟨h0, h1, h2, hku, hu⟩) (x25519_length _ _)
  case keygen =>
    exact exec_of_memWrite_memWrite hwf rfl ((checks_xKeygen s).mpr ⟨h0, h1, h2, hk, hkp, hpp⟩)
      (by simp) (x25519_length _ _) (by simpa [Apart] using hpp)

/-! ### The staged ladder (R180) -/

/-- A staged ladder is under way: SCALAR is `k`, both flags are set, FE[0..4] and SWAP hold `l`, and DBUF is
`m`, of `size` bytes. -/
structure InLadder (m : Memory) (size : Nat) (k : BitVec 256) (l : Ladder) (s : State) : Prop where
  scalar : s.scalar = k
  ladder : s.ladder = l
  valid : s.flags.xScalarValid = true
  active : s.flags.xLadderActive = true
  dbuf : s.dbuf = m
  dbufSize : s.dbufSize = size

section

variable {m : Memory} {size : Nat} {k : BitVec 256} {l : Ladder} {s : State}

/-- ARG writes of the host leave a ladder as it is. -/
theorem InLadder.withArgs (h : InLadder m size k l s) (args : Vector Word 8) :
    InLadder m size k l { s with args := args } :=
  ⟨h.scalar, h.ladder, h.valid, h.active, h.dbuf, h.dbufSize⟩

/-- `x.step` carries the ladder one step on (R176). -/
theorem InLadder.exec_xStep (h : InLadder m size k l s) (n : Fin 256) :
    ∃ t, exec (.xStep n) s = .next t ∧ InLadder m size k (ladderStep l (k.getLsbD n)) t := by
  refine ⟨_, exec_xStep_of_flags n h.valid h.active,
    ⟨h.scalar, ?_, h.valid, h.active, h.dbuf, h.dbufSize⟩⟩
  rw [h.ladder, h.scalar]
  exact ladder_setLadder s _

/-- `x.step n − 1` down to `x.step 0` run the ladder on the n low bits, highest first (R173). -/
theorem InLadder.runSeq_xSteps (b : Vector Word 8) {n : Nat} (hn : n ≤ 256) (h : InLadder m size k l s) :
    ∃ t, InLadder m size k (ladderRun k n l) t ∧ ∀ rest,
      runSeq (((List.finRange n).reverse.map fun i => (b, .xStep (i.castLE hn))) ++ rest) s =
        runSeq rest t := by
  induction n generalizing l s with
  | zero => exact ⟨s, h, fun _ => rfl⟩
  | succ n ih =>
    obtain ⟨u, hstep, hu⟩ := (h.withArgs b).exec_xStep ((Fin.last n).castLE hn)
    obtain ⟨t, ht, hrun⟩ := ih (by omega) hu
    refine ⟨t, ht, fun rest => ?_⟩
    rw [List.finRange_succ_last, List.reverse_append, List.reverse_singleton, List.singleton_append,
      List.map_cons, List.cons_append, runSeq_cons hstep, ← List.map_reverse, List.map_map, ← hrun]
    rfl

/-- `fe.load`, `x.ldscalar` and `x.init` start the ladder of the strings read. `x.init` reads u before it writes
the ladder's registers, so u may stand in any register. -/
theorem runSeq_ladderStart {a b : Vector Word 8} (r : Idx) (ha : a[0].toNat + 32 ≤ s.dbufSize)
    (hb : b[0].toNat + 32 ≤ s.dbufSize) :
    ∃ t, InLadder s.dbuf s.dbufSize (clampedScalar (s.dbuf.readBytes b[0].toNat 32))
        (ladderInit (fromBytes (s.dbuf.readBytes a[0].toNat 32))) t ∧ ∀ rest,
      runSeq ([(a, .feLoad r), (b, .xLdscalar), (b, .xInit r)] ++ rest) s = runSeq rest t := by
  obtain ⟨s₁, hload, hfe, hdbuf₁, hsize₁⟩ : ∃ t, exec (.feLoad r) { s with args := a } = .next t ∧
      t.fe[r] = fromBytes (s.dbuf.readBytes a[0].toNat 32) ∧ t.dbuf = s.dbuf ∧ t.dbufSize = s.dbufSize :=
    ⟨_, exec_feLoad_of_fits r ha, setFe_fe_same _ _, rfl, rfl⟩
  rw [← hsize₁] at hb
  obtain ⟨s₂, hscalar, hk, hvalid, hfe₂, hdbuf₂, hsize₂⟩ :
      ∃ t, exec .xLdscalar { s₁ with args := b } = .next t ∧
        t.scalar = clampedScalar (s₁.dbuf.readBytes b[0].toNat 32) ∧ t.flags.xScalarValid = true ∧
        t.fe = s₁.fe ∧ t.dbuf = s₁.dbuf ∧ t.dbufSize = s₁.dbufSize :=
    ⟨_, exec_xLdscalar_of_fits hb, rfl, rfl, complete_fe _ _, complete_dbuf _ _, complete_dbufSize _ _⟩
  obtain ⟨s₃, hinit, hl⟩ : ∃ t, exec (.xInit r) { s₂ with args := b } = .next t ∧
      InLadder s₂.dbuf s₂.dbufSize s₂.scalar (ladderInit s₂.fe[r]) t :=
    ⟨_, exec_xInit r, ⟨rfl, ladder_setLadder _ _, hvalid, rfl, rfl, rfl⟩⟩
  rw [hk, hfe₂, hfe, hdbuf₂, hdbuf₁, hsize₂, hsize₁] at hl
  exact ⟨s₃, hl, fun rest => (runSeq_cons hload).trans ((runSeq_cons hscalar).trans (runSeq_cons hinit))⟩

/-- `x.finish` and `fe.store` write the encoding of the settled ladder's quotient. -/
theorem InLadder.runSeq_ladderEnd (h : InLadder m size k l s) (b : Vector Word 8) {q : Vector Word 8}
    (hq : q[0].toNat + 32 ≤ size) :
    ∃ t, runSeq [(b, .xFinish 5), (q, .feStore 5)] s = .next t ∧
      t.dbuf = m.writeBytes q[0].toNat (toBytes (ladderOut (ladderSettle l))) := by
  obtain ⟨s₁, hfinish, hfe, hdbuf, hsize⟩ : ∃ t, exec (.xFinish 5) { s with args := b } = .next t ∧
      t.fe[(5 : Idx)] = ladderOut (ladderSettle s.ladder) ∧ t.dbuf = s.dbuf ∧ t.dbufSize = s.dbufSize :=
    ⟨_, exec_xFinish_of_active 5 h.active, setFe_fe_same _ _, rfl, rfl⟩
  rw [← h.dbufSize, ← hsize] at hq
  refine ⟨_, (runSeq_cons hfinish).trans (runSeq_cons (exec_feStore_of_fits 5 hq)), ?_⟩
  rw [complete_dbuf, memWrite_dbuf, hfe, hdbuf, h.dbuf, h.ladder]
  rfl

end

/-- Settles O36: the stages carry the ladder of `x25519` from the strings read to the string written. -/
theorem stagedLadderIsX25519 : Obligations.StagedLadderIsX25519 := by
  intro s r a b q _ hwf ha hb hq
  obtain ⟨s₁, h₁, hstart⟩ := runSeq_ladderStart r ha hb
  obtain ⟨s₂, h₂, hsteps⟩ := h₁.runSeq_xSteps b (n := 255) (by decide)
  obtain ⟨t, hend, hdbuf⟩ := h₂.runSeq_ladderEnd b hq
  refine ⟨t, ?run, ?read, ?outside⟩
  case run =>
    rw [List.append_assoc]
    exact (hstart _).trans ((hsteps _).trans hend)
  case read => exact hdbuf ▸ readBytes_writeBytes hwf _ _
  case outside => exact hdbuf ▸ sameOutside_writeBytes hwf _ _

end Sys2Proof.X25519
end

section
/-! PROOF. ChaCha20 (43_chacha20.md R190 to R205): the words of a string, what each command leaves, the stage
commands run one after another, and the stream byte by byte. -/

namespace Sys2Proof.ChaCha20

open Sys2Proof.Machine Sys2Proof.Laws Sys2Proof.Field

/-! ### The little-endian words of a string (R75) -/

theorem leWordAt_toNat {b : List Byte} {i : Nat} (hlen : 4 * i + 4 ≤ b.length) :
    (leWordAt b i).toNat = leNat (slice b (4 * i) (4 * i + 4)) := by
  have hlt := leNat_lt (slice b (4 * i) (4 * i + 4))
  rw [slice_length, show min (4 * i + 4 - 4 * i) (b.length - 4 * i) = 4 by omega] at hlt
  exact Nat.mod_eq_of_lt hlt

/-- A slice of a string read from DBUF is read from DBUF. -/
theorem slice_readBytes (m : Memory) (a : Nat) {n i j : Nat} (hj : j ≤ n) :
    slice (m.readBytes a n) i j = m.readBytes (a + i) (j - i) := by
  apply List.ext_getElem
  · simp only [slice_length, readBytes_length]
    omega
  · intro k _ _
    simp [slice, Memory.readBytes, Nat.add_assoc]

theorem leWordAt_readBytes (m : Memory) (a : Nat) {n i : Nat} (hn : 4 * i + 4 ≤ n) :
    (leWordAt (m.readBytes a n) i).toNat = leNat (m.readBytes (a + 4 * i) 4) := by
  rw [leWordAt_toNat (by simpa using hn), slice_readBytes m a hn, Nat.add_sub_cancel_left]

/-- A slice of a string joined from pieces of one length is one of them. -/
theorem slice_flatten {pieces : List (List Byte)} {n i : Nat} (hn : ∀ l ∈ pieces, l.length = n)
    (hi : i < pieces.length) : slice pieces.flatten (n * i) (n * i + n) = pieces[i] := by
  have hsum : ∀ k ≤ pieces.length, ((pieces.map List.length).take k).sum = n * k := by
    intro k hk
    rw [List.map_congr_left hn]
    simp [List.take_replicate, Nat.mul_comm, hk]
  have hpiece := List.drop_take_succ_flatten_eq_getElem pieces i hi
  rwa [hsum _ hi, hsum _ hi.le, List.drop_take, Nat.mul_succ] at hpiece

/-- R195: the words of a serialized matrix. -/
theorem leWordAt_serialize (x s : CcMatrix) (i : Idx) : leWordAt (serialize x s) i.val = x[i] + s[i] := by
  have hpieces : ∀ l ∈ List.zipWith (fun a b : Word => leBytes 4 (a + b).toNat) x.toList s.toList,
      l.length = 4 := by
    intro l hl
    obtain ⟨k, hk, rfl⟩ := List.getElem_of_mem hl
    simp
  rw [leWordAt, serialize, slice_flatten hpieces (by simp)]
  apply BitVec.eq_of_toNat_eq
  simp [leNat_leBytes]

section

variable (key nonce : List Byte) (ctr : Word)

/-- R191: the key words of the initial matrix. -/
theorem chaChaInit_key (i : Fin 8) : (chaChaInit key nonce ctr)[4 + i.val] = leWordAt key i := by
  fin_cases i <;> rfl

/-- R191: the nonce words of the initial matrix. -/
theorem chaChaInit_nonce (i : Fin 3) : (chaChaInit key nonce ctr)[13 + i.val] = leWordAt nonce i := by
  fin_cases i <;> rfl

end

/-! ### Regions of DBUF after a store -/

section

variable {m : Memory} (hwf : m.wf) (a : Nat) {bs : List Byte} {n : Nat} (hlen : bs.length = n)

include hwf hlen

theorem readBytes_writeBytes_of_length : (m.writeBytes a bs).readBytes a n = bs :=
  hlen ▸ readBytes_writeBytes hwf a bs

theorem sameOutside_writeBytes_of_length : m.SameOutside (m.writeBytes a bs) a n :=
  hlen ▸ sameOutside_writeBytes hwf a bs

end

/-- A string read from a region apart from the only bytes that changed is the one read before. -/
theorem readBytes_of_sameOutside {m m' : Memory} {a n c l : Nat} (h : m.SameOutside m' a n)
    (hapart : Apart c l a n) : m'.readBytes c l = m.readBytes c l := by
  refine readBytes_congr fun i hi => h _ ?_
  simp only [Apart] at hapart
  omega

/-! ### The commands -/

/-- What `cc.init` leaves: S0 and X loaded, CC_KEYED set (R196). -/
def keyedWith (s : State) (m : CcMatrix) : State :=
  { s.completedWith .ok with s0 := m, x := m, flags := { s.flags with ccKeyed := true } }

/-- What a command that writes X only leaves (R197 to R199). -/
def workingAt (s : State) (x : CcMatrix) : State := { s.completedWith .ok with x := x }

/-- What `cc.block` leaves of a block: the post-round matrix in X, the output in DBUF, the counter advanced
(R201, R203). It takes any pair, so that the lemmas about it never compute a block. -/
def blockWritten (s : State) (b : CcMatrix × List Byte) : State :=
  { s.memWrite (s.arg 0) b.2 with x := b.1, s0 := bumpCounter s.s0 }.complete .ok

theorem blockWritten_x (s : State) (b : CcMatrix × List Byte) : (blockWritten s b).x = b.1 := rfl

/-- Only DBUF, X and the counter differ after a block. -/
theorem blockWritten_eq (s : State) (b : CcMatrix × List Byte) :
    blockWritten s b = { s.completedWith .ok with
      dbuf := (blockWritten s b).dbuf, x := (blockWritten s b).x, s0 := bumpCounter s.s0 } := rfl

/-- The output region holds the output, and no byte outside it differs. -/
theorem blockWritten_region {s : State} {b : CcMatrix × List Byte} (hwf : s.dbuf.wf)
    (hlen : b.2.length = 64) :
    (blockWritten s b).dbuf.readBytes (s.arg 0) 64 = b.2 ∧
      s.dbuf.SameOutside (blockWritten s b).dbuf (s.arg 0) 64 :=
  ⟨readBytes_writeBytes_of_length hwf _ hlen, sameOutside_writeBytes_of_length hwf _ hlen⟩

/-- What `cc.xor` leaves of a run of the stream (R202). -/
def streamed (s : State) (r : StreamRun) : State :=
  { s.memWrite (s.arg 1) r.out with s0 := r.s0, x := r.x }.complete .ok

/-- Only DBUF, X and S0 differ after a run of the stream. -/
theorem streamed_eq {s : State} {r : StreamRun} {m : CcMatrix} (h : r.s0 = m) :
    streamed s r = { s.completedWith .ok with
      dbuf := (streamed s r).dbuf, x := (streamed s r).x, s0 := m } := by
  subst h
  rfl

/-- The initial matrix of the key, nonce and counter that the ARGs name (R191, R196). -/
def initialMatrix (m : Memory) (k : Vector Word 8) : CcMatrix :=
  chaChaInit (m.readBytes k[0].toNat 32) (m.readBytes k[1].toNat 12) k[2]

section

variable {s : State}

theorem exec_ccInit_of_fits (hkey : s.arg 0 + 32 ≤ s.dbufSize) (hnonce : s.arg 1 + 12 ≤ s.dbufSize) :
    exec .ccInit s = .next (keyedWith s (initialMatrix s.dbuf s.args)) :=
  runCommand_of_pass ((checks_ccInit s).mpr ⟨hkey, hnonce⟩)

theorem exec_ccXor_of_pass (hpass : checkFailure .ccXor s = none) :
    exec .ccXor s = .next (streamed s (stream s.s0 s.x (s.memRead (s.arg 0) (s.arg 2)))) :=
  runCommand_of_pass hpass

variable (hkeyed : s.flags.ccKeyed = true)

include hkeyed

theorem exec_ccQr_of_keyed (a b c d : Idx) :
    exec (.ccQr a b c d) s = .next (workingAt s (quarterRound s.x a b c d)) :=
  runCommand_of_pass ((checks_ccQr s a b c d).mpr hkeyed)

theorem exec_ccDround_of_keyed : exec .ccDround s = .next (workingAt s (doubleRound s.x)) :=
  runCommand_of_pass ((checks_ccDround s).mpr hkeyed)

theorem exec_ccLoadx_of_keyed : exec .ccLoadx s = .next (workingAt s s.s0) :=
  runCommand_of_pass ((checks_ccLoadx s).mpr hkeyed)

theorem exec_ccAddout_of_fits (hfits : s.arg 0 + 64 ≤ s.dbufSize) :
    exec .ccAddout s = .next { s.completedWith .ok with
      dbuf := s.dbuf.writeBytes (s.arg 0) (serialize s.x s.s0), s0 := bumpCounter s.s0 } :=
  runCommand_of_pass ((checks_ccAddout s).mpr ⟨hfits, hkeyed⟩)

theorem exec_ccBlock_of_fits (hfits : s.arg 0 + 64 ≤ s.dbufSize) :
    exec .ccBlock s = .next (blockWritten s (chaChaBlock s.s0)) :=
  runCommand_of_pass ((checks_ccBlock s).mpr ⟨hfits, hkeyed⟩)

end

/-- Settles O37: the words of `chaChaInit`, each read from DBUF. -/
theorem ccInitLoadsTheState : Obligations.CcInitLoadsTheState := by
  intro s hkey hnonce
  refine ⟨_, exec_ccInit_of_fits hkey hnonce, rfl, rfl, rfl, rfl, rfl, fun i => ?key, rfl,
    fun i => ?nonce, rfl⟩
  case key =>
    exact (congrArg BitVec.toNat (chaChaInit_key _ _ _ i)).trans (leWordAt_readBytes _ _ (by omega))
  case nonce =>
    exact (congrArg BitVec.toNat (chaChaInit_nonce _ _ _ i)).trans (leWordAt_readBytes _ _ (by omega))

/-- Settles O38: `quarterRound` is the four lines, each two assignments. -/
theorem quarterRoundLines : Obligations.QuarterRoundLines :=
  fun _ a b c d hkeyed => ⟨_, exec_ccQr_of_keyed hkeyed a b c d, rfl, rfl⟩

/-- Settles O40: the region written holds the serialized sum, word by word. -/
theorem addoutWritesTheSum : Obligations.AddoutWritesTheSum := by
  intro s hkeyed hwf hfits
  have hlen := serialize_length s.x s.s0
  refine ⟨_, exec_ccAddout_of_fits hkeyed hfits, rfl, fun i => ?word,
    sameOutside_writeBytes_of_length hwf _ hlen⟩
  rw [← leWordAt_readBytes _ _ (show 4 * i.val + 4 ≤ 64 by omega),
    readBytes_writeBytes_of_length hwf _ hlen, leWordAt_serialize]

/-! ### The stage commands, one after another (R198, R204) -/

section

variable {s : State} (hkeyed : s.flags.ccKeyed = true) (rest : List (Vector Word 8 × Instr)) (x : CcMatrix)

include hkeyed

/-- A quarter round after another command on X, with the same ARGs. -/
theorem runSeq_ccQr (a b c d : Idx) :
    runSeq ((s.args, .ccQr a b c d) :: rest) (workingAt s x) =
      runSeq rest (workingAt s (quarterRound x a b c d)) :=
  runSeq_cons (exec_ccQr_of_keyed (s := workingAt s x) hkeyed a b c d)

/-- A run of n double rounds. -/
theorem runSeq_ccDrounds (n : Nat) :
    runSeq (List.replicate n (s.args, .ccDround) ++ rest) (workingAt s x) =
      runSeq rest (workingAt s (doubleRounds n x)) := by
  induction n generalizing x with
  | zero => rfl
  | succ n ih =>
    exact (runSeq_cons (exec_ccDround_of_keyed (s := workingAt s x) hkeyed)).trans (ih (doubleRound x))

/-- `cc.loadx`, n double rounds and `cc.addout`: what a block of n double rounds leaves. -/
theorem runSeq_blockStages (hfits : s.arg 0 + 64 ≤ s.dbufSize) (n : Nat) :
    runSeq ((s.args, .ccLoadx) :: List.replicate n (s.args, .ccDround) ++ [(s.args, .ccAddout)]) s =
      .next (blockWritten s (doubleRounds n s.s0, serialize (doubleRounds n s.s0) s.s0)) := by
  have haddout := exec_ccAddout_of_fits (s := workingAt s (doubleRounds n s.s0)) hkeyed hfits
  rw [List.cons_append, runSeq_cons (exec_ccLoadx_of_keyed hkeyed)]
  exact (runSeq_ccDrounds hkeyed _ s.s0 n).trans (runSeq_cons haddout)

end

/-- Settles O39: the eight quarter rounds of `doubleRound`, run as commands. -/
theorem doubleRoundIsEightQuarterRounds : Obligations.DoubleRoundIsEightQuarterRounds := by
  intro s hkeyed
  refine ⟨⟨_, exec_ccDround_of_keyed hkeyed, rfl, ?staged⟩, exec_ccLoadx_of_keyed hkeyed⟩
  rw [runSeq_cons (exec_ccQr_of_keyed hkeyed 0 4 8 12)]
  simp only [runSeq_ccQr hkeyed]
  rfl

/-- Settles O41: a block is its stages with ten double rounds. -/
theorem blockLaw : Obligations.BlockLaw := by
  intro s hkeyed hwf hfits
  have hlen := chaChaBlock_length s.s0
  obtain ⟨hread, houtside⟩ := blockWritten_region hwf hlen
  exact ⟨_, exec_ccBlock_of_fits hkeyed hfits, blockWritten_eq s _, houtside, blockWritten_x s _, hread,
    runSeq_blockStages hkeyed hfits 10⟩

/-! ### The stream (R202, R203) -/

/-- The matrix whose block counter is k blocks further, mod 2^32 (R203). -/
def advance (s0 : CcMatrix) (k : Nat) : CcMatrix := s0.set 12 (s0[12] + BitVec.ofNat 32 k)

theorem advance_zero (s0 : CcMatrix) : advance s0 0 = s0 := by simp [advance]

theorem advance_bumpCounter (s0 : CcMatrix) (k : Nat) : advance (bumpCounter s0) k = advance s0 (k + 1) := by
  simp [advance, bumpCounter, BitVec.ofNat_add, BitVec.add_assoc, BitVec.add_comm]

/-- The keystream of the next block on is the keystream 64 bytes further. -/
theorem keystreamByte_bumpCounter (s0 : CcMatrix) (j : Nat) :
    keystreamByte (bumpCounter s0) j = keystreamByte s0 (j + 64) := by
  have hblock := advance_bumpCounter s0 (j / 64)
  simp only [advance] at hblock
  rw [keystreamByte, keystreamByte, hblock, Nat.add_div_right j (by decide), Nat.add_mod_right]

/-- The first 64 bytes of the keystream are the block of `s0`. -/
theorem keystreamByte_of_lt (s0 : CcMatrix) {j : Nat} (hj : j < 64) :
    keystreamByte s0 j = (chaChaBlock s0).2.getD j 0#8 := by
  have hblock := advance_zero s0
  simp only [advance] at hblock
  rw [keystreamByte, Nat.div_eq_of_lt hj, Nat.mod_eq_of_lt hj, hblock]

theorem xorBytes_getD {as bs : List Byte} {j : Nat} (ha : j < as.length) (hb : j < bs.length) :
    (xorBytes as bs).getD j 0#8 = as.getD j 0#8 ^^^ bs.getD j 0#8 := by
  simp [xorBytes, ha, hb]

/-- One block of the stream, then the rest of it. -/
theorem streamRun_succ (n : Nat) (s0 x : CcMatrix) (inp : List Byte) :
    streamRun (n + 1) s0 x inp =
      { streamRun n (bumpCounter s0) (chaChaBlock s0).1 (inp.drop 64) with
        out := xorBytes (inp.take 64) (chaChaBlock s0).2 ++
          (streamRun n (bumpCounter s0) (chaChaBlock s0).1 (inp.drop 64)).out } := by
  rw [streamRun]

theorem streamRun_s0 (n : Nat) (s0 x : CcMatrix) (inp : List Byte) :
    (streamRun n s0 x inp).s0 = advance s0 n := by
  induction n generalizing s0 x inp with
  | zero => exact (advance_zero s0).symm
  | succ n ih => rw [streamRun_succ, ih, advance_bumpCounter]

/-- X keeps the post-round matrix of the last block (R202). -/
theorem streamRun_x (n : Nat) (s0 x : CcMatrix) (inp : List Byte) :
    (streamRun (n + 1) s0 x inp).x = (chaChaBlock (advance s0 n)).1 := by
  induction n generalizing s0 x inp with
  | zero => rw [streamRun_succ, advance_zero, streamRun]
  | succ n ih => rw [streamRun_succ, ih, advance_bumpCounter]

/-- Every byte of the output is the byte of the input XOR the byte of the keystream (R202). -/
theorem streamRun_out_getD (n : Nat) (s0 x : CcMatrix) {inp : List Byte} (hn : inp.length ≤ 64 * n)
    {j : Nat} (hj : j < inp.length) :
    (streamRun n s0 x inp).out.getD j 0#8 = inp.getD j 0#8 ^^^ keystreamByte s0 j := by
  induction n generalizing s0 x inp j with
  | zero => omega
  | succ n ih =>
    have hhead : (xorBytes (inp.take 64) (chaChaBlock s0).2).length = min 64 inp.length := by simp
    rw [streamRun_succ]
    by_cases hlow : j < 64
    case pos =>
      have htake : j < (inp.take 64).length := by rw [List.length_take]; omega
      rw [List.getD_append _ _ _ _ (by omega), xorBytes_getD htake (by simpa using hlow),
        keystreamByte_of_lt s0 hlow]
      simp [List.getD_eq_getElem?_getD, hlow]
    case neg =>
      obtain ⟨k, rfl⟩ : ∃ k, j = k + 64 := ⟨j - 64, by omega⟩
      have htail : (inp.drop 64).length = inp.length - 64 := List.length_drop
      rw [List.getD_append_right _ _ _ _ (by omega), hhead, show k + 64 - min 64 inp.length = k by omega,
        ih (bumpCounter s0) (chaChaBlock s0).1 (by omega) (by omega), keystreamByte_bumpCounter]
      simp [List.getD_eq_getElem?_getD, Nat.add_comm]

section

variable (s0 x : CcMatrix) {inp : List Byte} {n : Nat} (hn : inp.length = n)

theorem stream_nil : stream s0 x [] = ⟨s0, x, []⟩ := by
  simp [stream, ceilDiv, streamRun]

include hn

theorem stream_s0 : (stream s0 x inp).s0 = advance s0 ((n + 63) / 64) := by
  subst hn
  exact streamRun_s0 _ _ _ _

theorem stream_x (hpos : 0 < n) : (stream s0 x inp).x = (chaChaBlock (advance s0 ((n - 1) / 64))).1 := by
  have hblocks : ceilDiv inp.length 64 = (n - 1) / 64 + 1 := by
    rw [ceilDiv]
    omega
  rw [stream, hblocks, streamRun_x]

theorem stream_out_getD {j : Nat} (hj : j < n) :
    (stream s0 x inp).out.getD j 0#8 = inp.getD j 0#8 ^^^ keystreamByte s0 j :=
  streamRun_out_getD _ s0 x (ceilDiv_mul_ge _ _ (by decide)) (hn ▸ hj)

end

/-- R205: the stream over its own output gives the input back. -/
theorem stream_stream_out (s0 x x' : CcMatrix) (inp : List Byte) :
    (stream s0 x' (stream s0 x inp).out).out = inp := by
  refine List.ext_getElem (by simp) fun j hj hj' => ?_
  rw [← List.getD_eq_getElem _ 0#8 hj, ← List.getD_eq_getElem _ 0#8 hj',
    stream_out_getD s0 x' (stream_out_length s0 x inp) hj', stream_out_getD s0 x rfl hj', BitVec.xor_assoc,
    BitVec.xor_self, BitVec.xor_zero]

/-- Settles O42: the stream over the string read, stored byte by byte. -/
theorem xorWithTheKeystream : Obligations.XorWithTheKeystream := by
  intro s hkeyed hwf hin hout hplace
  have hpass := (checks_ccXor s).mpr ⟨hin, hout, hplace, hkeyed⟩
  have hread := memRead_length s (s.arg 0) (s.arg 2)
  have hlen := (stream_out_length s.s0 s.x _).trans hread
  refine ⟨_, exec_ccXor_of_pass hpass, streamed_eq (stream_s0 s.s0 s.x hread), fun j hj => ?bytes,
    sameOutside_writeBytes_of_length hwf _ hlen, fun hpos => stream_x s.s0 s.x hread hpos,
    fun hzero => ?empty⟩
  case bytes =>
    have hstored := holds_writeBytes hwf (s.arg 1) _ j (hj.trans_eq hlen.symm)
    have hinput := readBytes_getD s.dbuf (s.arg 0) (s.arg 2) j hj
    exact hstored.trans ((stream_out_getD s.s0 s.x hread hj).trans (congrArg (· ^^^ _) hinput))
  case empty =>
    have hnil : s.memRead (s.arg 0) (s.arg 2) = [] := List.eq_nil_of_length_eq_zero (hread.trans hzero)
    rw [hnil, stream_nil]
    rfl

/-! ### Encryption and decryption (R205) -/

/-- `cc.init` then `cc.xor` store the stream that starts at the initial matrix, and nothing else. -/
theorem runSeq_ccInit_ccXor {s : State} {k a : Vector Word 8} (hwf : s.dbuf.wf)
    (hkey : k[0].toNat + 32 ≤ s.dbufSize) (hnonce : k[1].toNat + 12 ≤ s.dbufSize)
    (hin : Fits a[0].toNat a[2].toNat s.dbufSize) (hout : Fits a[1].toNat a[2].toNat s.dbufSize)
    (hplace : a[0] = a[1] ∨ Apart a[0].toNat a[2].toNat a[1].toNat a[2].toNat) :
    ∃ t, (∀ rest, runSeq ((k, .ccInit) :: (a, .ccXor) :: rest) s = runSeq rest t) ∧
      t.dbufSize = s.dbufSize ∧ t.dbuf.wf ∧ s.dbuf.SameOutside t.dbuf a[1].toNat a[2].toNat ∧
      t.dbuf.readBytes a[1].toNat a[2].toNat = (stream (initialMatrix s.dbuf k) (initialMatrix s.dbuf k)
        (s.dbuf.readBytes a[0].toNat a[2].toNat)).out := by
  have hinit := exec_ccInit_of_fits (s := { s with args := k }) hkey hnonce
  have hxor := exec_ccXor_of_pass
    (s := { keyedWith { s with args := k } (initialMatrix s.dbuf k) with args := a })
    ((checks_ccXor _).mpr ⟨hin, hout, hplace.imp_left (congrArg BitVec.toNat), rfl⟩)
  have hlen := (stream_out_length (initialMatrix s.dbuf k) (initialMatrix s.dbuf k) _).trans
    (readBytes_length s.dbuf a[0].toNat a[2].toNat)
  exact ⟨_, fun rest => (runSeq_cons hinit).trans (runSeq_cons hxor), rfl, writeBytes_wf hwf _ _,
    sameOutside_writeBytes_of_length hwf _ hlen, readBytes_writeBytes_of_length hwf _ hlen⟩

/-- Settles O43: the second `cc.init` reads the same key and nonce, and the second stream runs over the output
of the first. -/
theorem streamIsAnInvolution : Obligations.StreamIsAnInvolution := by
  intro s k a b hwf hkey hnonce hlen hfrom hin hmid hout hplace hplace' hkeyApart hnonceApart
  obtain ⟨t, hrun, hsize, hwf', houtside, hcipher⟩ := runSeq_ccInit_ccXor hwf hkey hnonce hin hmid hplace
  have hmatrix : initialMatrix t.dbuf k = initialMatrix s.dbuf k := by
    rw [initialMatrix, readBytes_of_sameOutside houtside hkeyApart,
      readBytes_of_sameOutside houtside hnonceApart, initialMatrix]
  rw [← hsize] at hkey hnonce hmid hout
  rw [← hlen, ← hfrom] at hmid hplace'
  obtain ⟨u, hrun', -, -, -, hplain⟩ :=
    runSeq_ccInit_ccXor hwf' hkey hnonce hmid (hlen ▸ hout) hplace'
  rw [hlen, hfrom, hcipher, hmatrix, stream_stream_out] at hplain
  exact ⟨u, (hrun _).trans (hrun' []), hplain⟩

end Sys2Proof.ChaCha20
end

section
/-! PROOF. Poly1305 (44_poly1305.md R210 to R220): the key and the chunks as numbers, what each command leaves,
the single use of a key, and the stage commands run one after another. -/

namespace Sys2Proof.Poly1305

open Sys2Proof.Machine Sys2Proof.Laws Sys2Proof.Field Sys2Proof.ChaCha20

/-! ### The key as numbers (R211) -/

/-- Half a key fits PR and PS. -/
theorem toNat_ofNat_leNat_readBytes (m : Memory) (a : Nat) :
    (BitVec.ofNat 128 (leNat (m.readBytes a 16))).toNat = leNat (m.readBytes a 16) := by
  have hlt := leNat_lt (m.readBytes a 16)
  rw [readBytes_length] at hlt
  rw [BitVec.toNat_ofNat]
  exact Nat.mod_eq_of_lt hlt

/-- R211: PR of a key read from DBUF is the clamped low half of the key. -/
theorem polyR_readBytes_toNat (m : Memory) (a : Nat) :
    (polyR (m.readBytes a 32)).toNat = leNat (m.readBytes a 16) &&& 0x0FFFFFFC0FFFFFFC0FFFFFFC0FFFFFFF := by
  rw [polyR, slice_readBytes m a (by decide), Nat.add_zero, BitVec.toNat_and, toNat_ofNat_leNat_readBytes]
  rfl

/-- R211: PS of a key read from DBUF is the high half of the key. -/
theorem polyS_readBytes_toNat (m : Memory) (a : Nat) :
    (polyS (m.readBytes a 32)).toNat = leNat (m.readBytes (a + 16) 16) := by
  rw [polyS, slice_readBytes m a le_rfl, toNat_ofNat_leNat_readBytes]

/-! ### The accumulator as numbers (R212 to R217) -/

/-- R214: one chunk added, as long as it was read. -/
theorem polyAcc_readBytes_val (h : Ph) (m : Memory) (a n : Nat) :
    (polyAcc h (m.readBytes a n)).val = (h.val + leNat (m.readBytes a n) + 2 ^ (8 * n)) % p130 := by
  rw [polyAcc, phOf_val, polyBlockValue, readBytes_length, Nat.add_assoc]

/-- R216: one chunk added and the sum multiplied; the two reductions are one. -/
theorem polyMul_polyAcc_readBytes_val (r : BitVec 128) (h : Ph) (m : Memory) (a n : Nat) :
    (polyMul (polyAcc h (m.readBytes a n)) r).val =
      (h.val + leNat (m.readBytes a n) + 2 ^ (8 * n)) * r.toNat % p130 := by
  rw [polyMul, phOf_val, polyAcc_readBytes_val, Nat.mod_mul_mod]

/-- A chunk of a string read from DBUF is read from DBUF, the last one as short as the rest. -/
theorem take_drop_readBytes (m : Memory) (a l n i : Nat) :
    ((m.readBytes a l).drop i).take n = m.readBytes (a + i) (min n (l - i)) := by
  rw [Memory.readBytes, ← List.map_drop, ← List.map_take]
  apply List.ext_getElem
  · simp [Memory.readBytes]
  · intro k _ _
    simp [Memory.readBytes, Nat.add_assoc]

/-- R216: the fold over the 16-byte chunks of a region, a shorter last one included. -/
theorem polyUpdate_readBytes_val (r : BitVec 128) (h : Ph) (m : Memory) (a l : Nat) :
    (polyUpdate r h (m.readBytes a l)).val = (List.range ((l + 15) / 16)).foldl
      (fun h j =>
        let n := min 16 (l - 16 * j)
        (h + leNat (m.readBytes (a + 16 * j) n) + 2 ^ (8 * n)) * r.toNat % p130) h.val := by
  rw [polyUpdate, foldl_chunks, readBytes_length]
  refine (List.foldl_hom Fin.val fun h j => ?_).symm
  rw [take_drop_readBytes, polyMul_polyAcc_readBytes_val]

/-- R217: the tag as a number. -/
theorem leNat_polyTag (h : Ph) (s : BitVec 128) : leNat (polyTag h s) = (h.val + s.toNat) % 2 ^ 128 := by
  rw [polyTag, leNat_leBytes]
  exact Nat.mod_mod _ _

/-! ### The commands -/

/-- What `p.key` leaves of the key it reads (R213). -/
def keyLoaded (s : State) (k : List Byte) : State :=
  { s.completedWith .ok with
    pr := polyR k, ps := polyS k, ph := phZero, flags := { s.flags with pKeyed := true } }

/-- What a command that writes PH only leaves (R214 to R216). -/
def accumulated (s : State) (h : Ph) : State := { s.completedWith .ok with ph := h }

/-- What `p.final` leaves: the tag in DBUF, and no key (R217). It takes any string, so that the lemmas about it
never compute a tag. -/
def finalized (s : State) (tag : List Byte) : State :=
  { s.memWrite (s.arg 0) tag with
    pr := 0#128, ps := 0#128, ph := phZero, flags := { s.flags with pKeyed := false } }.complete .ok

/-- Only DBUF, the Poly1305 registers and P_KEYED differ after `p.final`. -/
theorem finalized_eq (s : State) (tag : List Byte) :
    finalized s tag = { s.completedWith .ok with
      dbuf := (finalized s tag).dbuf, pr := 0#128, ps := 0#128, ph := phZero
      flags := { s.flags with pKeyed := false } } := rfl

theorem finalized_dbuf (s : State) (tag : List Byte) :
    (finalized s tag).dbuf = s.dbuf.writeBytes (s.arg 0) tag := rfl

/-- The tag's region holds it, and no byte outside it differs. -/
theorem finalized_region {s : State} {tag : List Byte} (hwf : s.dbuf.wf) (hlen : tag.length = 16) :
    (finalized s tag).dbuf.readBytes (s.arg 0) 16 = tag ∧
      s.dbuf.SameOutside (finalized s tag).dbuf (s.arg 0) 16 :=
  ⟨readBytes_writeBytes_of_length hwf _ hlen, sameOutside_writeBytes_of_length hwf _ hlen⟩

section

variable {s : State}

theorem exec_pKey_of_fits (hfits : s.arg 0 + 32 ≤ s.dbufSize) :
    exec .pKey s = .next (keyLoaded s (s.dbuf.readBytes (s.arg 0) 32)) :=
  runCommand_of_pass ((checks_pKey s).mpr hfits)

/-- A command whose checks pass and whose body stores a string changes DBUF so and nothing else. -/
theorem exec_of_memWrite_dbuf {i : Instr} {a : Nat} {bs : List Byte}
    (hexec : exec i s = runCommand i s (s.memWrite a bs)) (hpass : checkFailure i s = none) :
    ∃ t, exec i s = .next t ∧ t = { s.completedWith .ok with dbuf := t.dbuf } ∧
      t.dbuf = s.dbuf.writeBytes a bs :=
  ⟨_, hexec.trans (runCommand_of_pass hpass), rfl, rfl⟩

/-- R218: `p.mac` stores the tag and changes nothing else. -/
theorem exec_pMac_of_pass (hpass : checkFailure .pMac s = none) :
    ∃ t, exec .pMac s = .next t ∧ t = { s.completedWith .ok with dbuf := t.dbuf } ∧
      t.dbuf = s.dbuf.writeBytes s.args[3].toNat (poly1305 (s.dbuf.readBytes s.args[0].toNat 32)
        (s.dbuf.readBytes s.args[1].toNat s.args[2].toNat)) :=
  exec_of_memWrite_dbuf rfl hpass

variable (hkeyed : s.flags.pKeyed = true)

include hkeyed

theorem exec_pAcc_of_fits (hmin : 1 ≤ s.arg 1) (hmax : s.arg 1 ≤ 16)
    (hfits : s.arg 0 + s.arg 1 ≤ s.dbufSize) :
    exec .pAcc s = .next (accumulated s (polyAcc s.ph (s.dbuf.readBytes (s.arg 0) (s.arg 1)))) :=
  runCommand_of_pass ((checks_pAcc s).mpr ⟨hmin, hmax, hfits, hkeyed⟩)

theorem exec_pMul_of_keyed : exec .pMul s = .next (accumulated s (polyMul s.ph s.pr)) :=
  runCommand_of_pass ((checks_pMul s).mpr hkeyed)

theorem exec_pUpdate_of_fits (hfits : Fits (s.arg 0) (s.arg 1) s.dbufSize) :
    exec .pUpdate s =
      .next (accumulated s (polyUpdate s.pr s.ph (s.dbuf.readBytes (s.arg 0) (s.arg 1)))) :=
  runCommand_of_pass ((checks_pUpdate s).mpr ⟨hfits, hkeyed⟩)

theorem exec_pFinal_of_fits (hfits : s.arg 0 + 16 ≤ s.dbufSize) :
    exec .pFinal s = .next (finalized s (polyTag s.ph s.ps)) :=
  runCommand_of_pass ((checks_pFinal s).mpr ⟨hfits, hkeyed⟩)

end

/-- R220: after `p.final` a second one misses the flag. -/
theorem exec_pFinal_finalized {s : State} (hfits : s.arg 0 + 16 ≤ s.dbufSize) (tag : List Byte) :
    exec .pFinal (finalized s tag) = .next ((finalized s tag).completedWith .sequence) :=
  MissingFlag.exec_of_missing_flag ((checks_pFinal _).mpr ⟨hfits, rfl⟩) rfl

/-- Settles O44: each stage command's formula, read as a number. -/
theorem polyStageFormulas : Obligations.PolyStageFormulas := by
  intro s
  refine ⟨fun hfits => ?key, fun hkeyed hmin hmax hfits => ?acc, fun hkeyed => ?mul,
    fun hkeyed hfits => ?update⟩
  case key =>
    exact ⟨_, exec_pKey_of_fits hfits, rfl, polyR_readBytes_toNat _ _, polyS_readBytes_toNat _ _⟩
  case acc =>
    exact ⟨_, exec_pAcc_of_fits hkeyed hmin hmax hfits, rfl, polyAcc_readBytes_val _ _ _ _⟩
  case mul => exact ⟨_, exec_pMul_of_keyed hkeyed, rfl, rfl⟩
  case update =>
    exact ⟨_, exec_pUpdate_of_fits hkeyed hfits, rfl, polyUpdate_readBytes_val _ _ _ _ _⟩

/-- Settles O45: the tag stored is the only byte change, and the flag that `p.final` needs is 0 after it. -/
theorem polyFinalIsSingleUse : Obligations.PolyFinalIsSingleUse := by
  intro s hkeyed hwf hfits
  obtain ⟨hread, houtside⟩ := finalized_region hwf (polyTag_length s.ph s.ps)
  exact ⟨_, exec_pFinal_of_fits hkeyed hfits, finalized_eq s _,
    (congrArg leNat hread).trans (leNat_polyTag _ _), houtside, exec_pFinal_finalized hfits _⟩

/-! ### The stage commands, one after another (R216, R219) -/

/-- A string read from DBUF in two parts. -/
theorem readBytes_add (m : Memory) (a n l : Nat) :
    m.readBytes a (n + l) = m.readBytes a n ++ m.readBytes (a + n) l := by
  simp [Memory.readBytes, List.range_add, Nat.add_assoc]

/-- The two parts of a region in bounds are in bounds. -/
theorem fits_parts {a n l size : Nat} (hfits : Fits a (n + l) size) :
    Fits a n size ∧ Fits (a + n) l size := by
  simp only [Fits] at *
  omega

/-- R216, R219: the tag of a message whose first part is whole chunks, from the accumulator after each part. -/
theorem poly1305_append (k : List Byte) {as : List Byte} (bs : List Byte) (hd : as.length % 16 = 0) :
    poly1305 k (as ++ bs) =
      polyTag (polyUpdate (polyR k) (polyUpdate (polyR k) phZero as) bs) (polyS k) := by
  rw [poly1305, polyUpdate_append _ _ _ _ hd]

/-- A run with the key `k` in the stage registers and the accumulator at `h`, over the DBUF `m`. -/
structure Accumulating (m : Memory) (size : Nat) (k : List Byte) (h : Ph) (s : State) : Prop where
  dbuf : s.dbuf = m
  dbufSize : s.dbufSize = size
  keyed : s.flags.pKeyed = true
  pr : s.pr = polyR k
  ps : s.ps = polyS k
  ph : s.ph = h

section

variable {m : Memory} {size : Nat} {k : List Byte} {h : Ph} {s : State} {args : Vector Word 8}

/-- R213: `p.key` starts a run with the key it reads. -/
theorem exec_pKey_accumulating (hfits : args[0].toNat + 32 ≤ s.dbufSize) :
    ∃ t, exec .pKey { s with args := args } = .next t ∧
      Accumulating s.dbuf s.dbufSize (s.dbuf.readBytes args[0].toNat 32) phZero t :=
  ⟨_, exec_pKey_of_fits (s := { s with args := args }) hfits, rfl, rfl, rfl, rfl, rfl, rfl⟩

/-- R216: `p.update` goes on with the run. -/
theorem Accumulating.exec_pUpdate (hs : Accumulating m size k h s)
    (hfits : Fits args[0].toNat args[1].toNat size) :
    ∃ t, exec .pUpdate { s with args := args } = .next t ∧ Accumulating m size k
      (polyUpdate (polyR k) h (m.readBytes args[0].toNat args[1].toNat)) t := by
  obtain ⟨rfl, rfl, hkeyed, hpr, hps, rfl⟩ := hs
  rw [← hpr]
  exact ⟨_, exec_pUpdate_of_fits (s := { s with args := args }) hkeyed hfits, rfl, rfl, hkeyed, hpr, hps, rfl⟩

/-- R217: `p.final` ends the run with its tag in DBUF. -/
theorem Accumulating.exec_pFinal (hs : Accumulating m size k h s) (hfits : args[0].toNat + 16 ≤ size) :
    ∃ t, exec .pFinal { s with args := args } = .next t ∧
      t.dbuf = m.writeBytes args[0].toNat (polyTag h (polyS k)) := by
  obtain ⟨rfl, rfl, hkeyed, -, hps, rfl⟩ := hs
  rw [← hps]
  exact ⟨_, exec_pFinal_of_fits (s := { s with args := args }) hkeyed hfits, finalized_dbuf _ _⟩

end

/-- `p.key`, two `p.update` and `p.final`, on regions in bounds, store the tag of the key and of the two
strings that follow it, where the first is whole chunks. -/
theorem runSeq_pKey_pUpdates_pFinal {s : State} {k a b q : Vector Word 8}
    (hkey : k[0].toNat + 32 ≤ s.dbufSize) (hfirst : Fits a[0].toNat a[1].toNat s.dbufSize)
    (hrest : Fits b[0].toNat b[1].toNat s.dbufSize) (htag : q[0].toNat + 16 ≤ s.dbufSize)
    (hwhole : a[1].toNat % 16 = 0) :
    ∃ u, runSeq [(k, .pKey), (a, .pUpdate), (b, .pUpdate), (q, .pFinal)] s = .next u ∧
      u.dbuf = s.dbuf.writeBytes q[0].toNat (poly1305 (s.dbuf.readBytes k[0].toNat 32)
        (s.dbuf.readBytes a[0].toNat a[1].toNat ++ s.dbuf.readBytes b[0].toNat b[1].toNat)) := by
  obtain ⟨s₁, hrun₁, hs₁⟩ := exec_pKey_accumulating hkey
  obtain ⟨s₂, hrun₂, hs₂⟩ := hs₁.exec_pUpdate hfirst
  obtain ⟨s₃, hrun₃, hs₃⟩ := hs₂.exec_pUpdate hrest
  obtain ⟨u, hrun₄, hdbuf⟩ := hs₃.exec_pFinal htag
  rw [poly1305_append _ _ ((congrArg (· % 16) (readBytes_length _ _ _)).trans hwhole)]
  exact ⟨u, (runSeq_cons hrun₁).trans <| (runSeq_cons hrun₂).trans <| (runSeq_cons hrun₃).trans <|
    runSeq_cons hrun₄, hdbuf⟩

/-- Settles O46: the message is read in its two parts, and both ways store one tag at one place. -/
theorem streamedPolyIsOneShotPoly : Obligations.StreamedPolyIsOneShotPoly := by
  intro s k a b q hwf hmsg hkey htag hkeyApart hmsgApart hk ha hwhole hnext hsum hq
  obtain ⟨t, hmac, hframe, hwritten⟩ :=
    exec_pMac_of_pass ((checks_pMac s).mpr ⟨hkey, hmsg, htag, hkeyApart, hmsgApart⟩)
  have hparts : s.dbuf.readBytes s.args[1].toNat s.args[2].toNat =
      s.dbuf.readBytes a[0].toNat a[1].toNat ++ s.dbuf.readBytes b[0].toNat b[1].toNat := by
    rw [← ha, ← hsum, readBytes_add, hnext]
  rw [← ha, ← hsum] at hmsg
  obtain ⟨hfirst, hrest⟩ := fits_parts hmsg
  obtain ⟨u, hrun, hdbuf⟩ := runSeq_pKey_pUpdates_pFinal (k := k) (q := q) (hk ▸ hkey) hfirst
    (hnext ▸ hrest) (hq ▸ htag) hwhole
  rw [hk, hq, ← hparts] at hdbuf
  refine ⟨t, u, hmac, hframe, ?outside, ?tag, hrun, hdbuf.trans hwritten.symm⟩
  case outside => exact hwritten ▸ sameOutside_writeBytes_of_length hwf _ (poly1305_length _ _)
  case tag => exact hwritten ▸ readBytes_writeBytes_of_length hwf _ (poly1305_length _ _)

end Sys2Proof.Poly1305
end

section
/-! PROOF. AEAD (45_aead.md R230 to R239): the strings that a command reads and the strings it stores. -/

namespace Sys2Proof.Aead

open Sys2Proof.Machine Sys2Proof.Laws Sys2Proof.Field Sys2Proof.ChaCha20

/-! ### The ciphertext and the tag as strings (R231, R232) -/

/-- The tag with the one-time key and the MAC data spelled out, as the lengths are given (R230, R231). -/
theorem aeadTag_eq (key nonce : List Byte) {a c : List Byte} {n l : Nat} (ha : a.length = n)
    (hc : c.length = l) :
    aeadTag key nonce a c = poly1305 ((chaChaBlock (chaChaInit key nonce 0#32)).2.take 32)
      (a ++ List.replicate ((16 - n % 16) % 16) 0#8 ++ c ++ List.replicate ((16 - l % 16) % 16) 0#8 ++
        leBytes 8 n ++ leBytes 8 l) := by
  subst ha hc
  rfl

theorem aeadCrypt_getD (key nonce : List Byte) {m : List Byte} {j : Nat} (hj : j < m.length) :
    (aeadCrypt key nonce m).getD j 0#8 = m.getD j 0#8 ^^^ keystreamByte (chaChaInit key nonce 1#32) j :=
  stream_out_getD _ _ rfl hj

/-- R239: decryption of the encryption is the message, for both start at counter 1. -/
theorem aeadCrypt_aeadCrypt (key nonce m : List Byte) : aeadCrypt key nonce (aeadCrypt key nonce m) = m :=
  stream_stream_out _ _ _ _

/-- A region that holds the encryption of another holds, byte by byte, the XOR with the keystream. -/
theorem readByte_of_readBytes_eq_aeadCrypt {m m' : Memory} {key nonce : List Byte} {a b n : Nat}
    (h : m'.readBytes b n = aeadCrypt key nonce (m.readBytes a n)) {j : Nat} (hj : j < n) :
    m'.readByte (b + j) = m.readByte (a + j) ^^^ keystreamByte (chaChaInit key nonce 1#32) j := by
  rw [← readBytes_getD m' b n j hj, h, aeadCrypt_getD _ _ (by simpa using hj), readBytes_getD m a n j hj]

/-! ### Two regions of DBUF after two stores -/

/-- Every byte outside both [a, a + n) and [b, b + l) reads in `m'` as in `m`. -/
def SameOutsideBoth (m m' : Memory) (a n b l : Nat) : Prop :=
  ∀ k, (k < a ∨ a + n ≤ k) → (k < b ∨ b + l ≤ k) → m'.readByte k = m.readByte k

/-- A string read from a region apart from both is the one read before. -/
theorem SameOutsideBoth.readBytes_eq {m m' : Memory} {a n b l c i : Nat} (h : SameOutsideBoth m m' a n b l)
    (ha : Apart c i a n) (hb : Apart c i b l) : m'.readBytes c i = m.readBytes c i := by
  refine readBytes_congr fun j hj => h _ ?_ ?_
  all_goals
    simp only [Apart] at ha hb
    omega

/-- A command whose checks pass and whose body stores two strings to regions that are apart completes with OK;
the regions then hold them, and nothing else is changed. -/
theorem exec_of_two_stores {i : Instr} {s : State} {a b n l : Nat} {bs cs : List Byte}
    (hwf : s.dbuf.wf) (hexec : exec i s = runCommand i s ((s.memWrite a bs).memWrite b cs))
    (hpass : checkFailure i s = none) (hbs : bs.length = n) (hcs : cs.length = l) (hapart : Apart a n b l) :
    ∃ t, exec i s = .next t ∧ t = { s.completedWith .ok with dbuf := t.dbuf } ∧ t.dbuf.wf ∧
      t.dbuf.readBytes a n = bs ∧ t.dbuf.readBytes b l = cs ∧ SameOutsideBoth s.dbuf t.dbuf a n b l := by
  have hwf' := writeBytes_wf hwf a bs
  have hfirst := sameOutside_writeBytes_of_length hwf a hbs
  have hsecond := sameOutside_writeBytes_of_length hwf' b hcs
  exact ⟨_, hexec.trans (runCommand_of_pass hpass), rfl, writeBytes_wf hwf' b cs,
    (readBytes_of_sameOutside hsecond hapart).trans (readBytes_writeBytes_of_length hwf a hbs),
    readBytes_writeBytes_of_length hwf' b hcs, fun k ha hb => (hsecond k hb).trans (hfirst k ha)⟩

/-! ### The commands -/

/-- The strings that an AEAD command reads: key, nonce, associated data, and the text it encrypts or decrypts
(R106). -/
structure Inputs (s : State) (key nonce aad text : List Byte) : Prop where
  key : s.memRead (s.arg 0) 32 = key
  nonce : s.memRead (s.arg 1) 12 = nonce
  aad : s.memRead (s.arg 2) (s.arg 3) = aad
  text : s.memRead (s.arg 4) (s.arg 5) = text

theorem inputs_self (s : State) :
    Inputs s (s.memRead (s.arg 0) 32) (s.memRead (s.arg 1) 12)
      (s.memRead (s.arg 2) (s.arg 3)) (s.memRead (s.arg 4) (s.arg 5)) :=
  ⟨rfl, rfl, rfl, rfl⟩

section

variable {s : State} {key nonce aad text : List Byte} (h : Inputs s key nonce aad text)

include h

/-- R232: past its checks `aead.enc` stores the ciphertext and its tag, and changes nothing else. -/
theorem Inputs.exec_aeadEnc (hwf : s.dbuf.wf) (hpass : checkFailure .aeadEnc s = none) :
    ∃ t, exec .aeadEnc s = .next t ∧ t = { s.completedWith .ok with dbuf := t.dbuf } ∧ t.dbuf.wf ∧
      t.dbuf.readBytes (s.arg 6) (s.arg 5) = aeadCrypt key nonce text ∧
      t.dbuf.readBytes (s.arg 7) 16 = aeadTag key nonce aad (aeadCrypt key nonce text) ∧
      SameOutsideBoth s.dbuf t.dbuf (s.arg 6) (s.arg 5) (s.arg 7) 16 := by
  obtain ⟨-, -, -, -, -, -, hapart, -⟩ := (checks_aeadEnc s).mp hpass
  obtain ⟨rfl, rfl, rfl, rfl⟩ := h
  exact exec_of_two_stores hwf rfl hpass ((aeadCrypt_length _ _ _).trans (readBytes_length _ _ _))
    (aeadTag_length _ _ _ _) hapart

/-- The comparator's byte is 0 exactly when the 16 bytes at the tag's address are the computed tag (R233). -/
theorem Inputs.comparator_eq_zero_iff :
    orBytes (xorBytes (aeadTag (s.memRead (s.arg 0) 32) (s.memRead (s.arg 1) 12)
      (s.memRead (s.arg 2) (s.arg 3)) (s.memRead (s.arg 4) (s.arg 5))) (s.memRead (s.arg 7) 16)) = 0#8 ↔
      s.memRead (s.arg 7) 16 = aeadTag key nonce aad text := by
  obtain ⟨rfl, rfl, rfl, rfl⟩ := h
  exact (orBytes_xorBytes_eq_zero _ _ (by simp)).trans eq_comm

variable (hpass : checkFailure .aeadDec s = none)

include hpass

/-- R233: past its checks and with the computed tag at its address, `aead.dec` stores the plaintext. -/
theorem Inputs.exec_aeadDec_of_tag_eq (htag : s.memRead (s.arg 7) 16 = aeadTag key nonce aad text) :
    exec .aeadDec s = .next { s.completedWith .ok with
      dbuf := s.dbuf.writeBytes (s.arg 6) (aeadCrypt key nonce text), result := false } := by
  have hzero := h.comparator_eq_zero_iff.mpr htag
  obtain ⟨rfl, rfl, rfl, rfl⟩ := h
  refine (runJudged_of_pass hpass).trans ?_
  rw [if_pos hzero]
  rfl

/-- R235: with any other 16 bytes there, `aead.dec` stores nothing. -/
theorem Inputs.exec_aeadDec_of_tag_ne (htag : s.memRead (s.arg 7) 16 ≠ aeadTag key nonce aad text) :
    exec .aeadDec s = .next { s.completedWith .auth with result := true } := by
  refine (runJudged_of_pass hpass).trans ?_
  rw [if_neg (mt h.comparator_eq_zero_iff.mp htag)]
  rfl

end

/-- Settles O47: the ciphertext and its tag stand at their addresses after the two stores. -/
theorem aeadEncWritesCiphertextAndTag : Obligations.AeadEncWritesCiphertextAndTag := by
  intro s hwf hkey hnonce haad htext hct htag hapart hkeyCt hnonceCt haadCt htextCt hkeyTag hnonceTag haadTag
    htextTag
  have hpass := (checks_aeadEnc s).mpr ⟨hkey, hnonce, haad, htext, hct, htag, hapart, hkeyCt, hkeyTag, hnonceCt,
    hnonceTag, haadCt, haadTag, htextCt, htextTag⟩
  obtain ⟨t, hexec, hframe, -, hctRead, htagRead, houtside⟩ := (inputs_self s).exec_aeadEnc hwf hpass
  refine ⟨t, hexec, hframe, ⟨fun j hj => readByte_of_readBytes_eq_aeadCrypt hctRead hj, ?tag⟩, houtside⟩
  rw [htagRead, ← hctRead]
  exact aeadTag_eq _ _ (readBytes_length _ _ _) (readBytes_length _ _ _)

/-- Settles O48: the comparison comes before the one store. -/
theorem aeadDecVerifiesBeforeRelease : Obligations.AeadDecVerifiesBeforeRelease := by
  intro s hwf hkey hnonce haad htext hout htag hkeyOut hnonceOut haadOut htextOut htagOut
  have hpass := (checks_aeadDec s).mpr ⟨hkey, hnonce, haad, htext, htag, hout, hkeyOut, hnonceOut, haadOut,
    htextOut, htagOut⟩
  have hcomputed := aeadTag_eq (s.dbuf.readBytes (s.arg 0) 32) (s.dbuf.readBytes (s.arg 1) 12)
    (readBytes_length s.dbuf (s.arg 2) (s.arg 3)) (readBytes_length s.dbuf (s.arg 4) (s.arg 5))
  have hlen := (aeadCrypt_length (s.dbuf.readBytes (s.arg 0) 32) (s.dbuf.readBytes (s.arg 1) 12) _).trans
    (readBytes_length s.dbuf (s.arg 4) (s.arg 5))
  dsimp only
  rw [← hcomputed]
  refine ⟨(inputs_self s).exec_aeadDec_of_tag_ne hpass, fun hagree =>
    ⟨_, (inputs_self s).exec_aeadDec_of_tag_eq hpass hagree, rfl, fun j hj => ?released,
      sameOutside_writeBytes_of_length hwf _ hlen⟩⟩
  exact readByte_of_readBytes_eq_aeadCrypt (readBytes_writeBytes_of_length hwf _ hlen) hj

/-! ### Encryption, then decryption (R239) -/

/-- `u` names the key, nonce, associated data and tag that `s` names, and as its text the ciphertext that `s`
names (R239). -/
structure NamesCiphertextOf (u s : State) : Prop where
  key : u.arg 0 = s.arg 0
  nonce : u.arg 1 = s.arg 1
  aad : u.arg 2 = s.arg 2
  aadLen : u.arg 3 = s.arg 3
  text : u.arg 4 = s.arg 6
  textLen : u.arg 5 = s.arg 5
  tag : u.arg 7 = s.arg 7

section

variable {s u : State} (hu : NamesCiphertextOf u s) (hpass : checkFailure .aeadEnc s = none)

include hu hpass

/-- The outputs of `aead.enc` are apart from the key, the nonce and the associated data, which are read again. -/
theorem NamesCiphertextOf.inputs {key nonce aad text : List Byte} (h : Inputs s key nonce aad text)
    (houtside : SameOutsideBoth s.dbuf u.dbuf (s.arg 6) (s.arg 5) (s.arg 7) 16) :
    Inputs u key nonce aad (u.dbuf.readBytes (s.arg 6) (s.arg 5)) := by
  obtain ⟨-, -, -, -, -, -, -, hkeyCt, hkeyTag, hnonceCt, hnonceTag, haadCt, haadTag, -⟩ :=
    (checks_aeadEnc s).mp hpass
  obtain ⟨rfl, rfl, rfl, rfl⟩ := h
  refine ⟨?key, ?nonce, ?aad, ?text⟩
  case key =>
    rw [hu.key]
    exact houtside.readBytes_eq hkeyCt hkeyTag
  case nonce =>
    rw [hu.nonce]
    exact houtside.readBytes_eq hnonceCt hnonceTag
  case aad =>
    rw [hu.aad, hu.aadLen]
    exact houtside.readBytes_eq haadCt haadTag
  case text => rw [hu.text, hu.textLen, State.memRead]

/-- What `aead.enc` read and wrote is in bounds; what is left to check is the output of `aead.dec`. -/
theorem NamesCiphertextOf.checkFailure_aeadDec (hsize : u.dbufSize = s.dbufSize)
    (hout : Fits (u.arg 6) (u.arg 5) u.dbufSize) (hkey : Apart (u.arg 0) 32 (u.arg 6) (u.arg 5))
    (hnonce : Apart (u.arg 1) 12 (u.arg 6) (u.arg 5))
    (haad : Apart (u.arg 2) (u.arg 3) (u.arg 6) (u.arg 5))
    (htext : u.arg 4 = u.arg 6 ∨ Apart (u.arg 4) (u.arg 5) (u.arg 6) (u.arg 5))
    (htag : Apart (u.arg 7) 16 (u.arg 6) (u.arg 5)) : checkFailure .aeadDec u = none := by
  obtain ⟨hkeyFits, hnonceFits, haadFits, -, hctFits, htagFits, -⟩ := (checks_aeadEnc s).mp hpass
  rw [← hsize] at hkeyFits hnonceFits haadFits hctFits htagFits
  rw [← hu.key] at hkeyFits
  rw [← hu.nonce] at hnonceFits
  rw [← hu.aad, ← hu.aadLen] at haadFits
  rw [← hu.text, ← hu.textLen] at hctFits
  rw [← hu.tag] at htagFits
  exact (checks_aeadDec u).mpr ⟨hkeyFits, hnonceFits, haadFits, hctFits, htagFits, hout, hkey, hnonce, haad,
    htext, htag⟩

end

/-- Settles O49: `aead.dec` reads the same key, nonce and associated data, finds the tag of the ciphertext it
reads, and stores the plaintext. -/
theorem aeadRoundTrip : Obligations.AeadRoundTrip := by
  intro s b hwf hkey hnonce haad htext hct htag hapart hkeyCt hnonceCt haadCt htextCt hkeyTag hnonceTag haadTag
    htextTag hb0 hb1 hb2 hb3 hb4 hb5 hb7 hout hkeyOut hnonceOut haadOut hctOut htagOut
  have hpass := (checks_aeadEnc s).mpr ⟨hkey, hnonce, haad, htext, hct, htag, hapart, hkeyCt, hkeyTag, hnonceCt,
    hnonceTag, haadCt, haadTag, htextCt, htextTag⟩
  obtain ⟨t, henc, hframe, hwf', hctRead, htagRead, houtside⟩ := (inputs_self s).exec_aeadEnc hwf hpass
  have hsize : t.dbufSize = s.dbufSize := by rw [hframe]
  have hnames : NamesCiphertextOf { t with args := b } s :=
    ⟨congrArg BitVec.toNat hb0, congrArg BitVec.toNat hb1, congrArg BitVec.toNat hb2, congrArg BitVec.toNat hb3,
      congrArg BitVec.toNat hb4, congrArg BitVec.toNat hb5, congrArg BitVec.toNat hb7⟩
  have hpass' := hnames.checkFailure_aeadDec hpass hsize (hsize ▸ hout) hkeyOut hnonceOut haadOut
    (hctOut.imp_left (congrArg BitVec.toNat)) htagOut
  have hinputs := hnames.inputs hpass (inputs_self s) houtside
  rw [← hctRead, ← hnames.tag] at htagRead
  have hdec := hinputs.exec_aeadDec_of_tag_eq hpass' htagRead
  refine ⟨_, (runSeq_cons henc).trans (runSeq_cons hdec), rfl, rfl, ?plaintext⟩
  rw [hctRead, aeadCrypt_aeadCrypt]
  exact readBytes_writeBytes_of_length hwf' _ ((readBytes_length _ _ _).trans hnames.textLen.symm)

end Sys2Proof.Aead
end

section
/-! PROOF. SHA-256 (46_sha256.md R250 to R265): the schedule of a block, the digest and the padding as strings, what
each command leaves, and the stage and streaming commands run one after another. -/

namespace Sys2Proof.Sha256

open Sys2Proof.Machine Sys2Proof.Laws Sys2Proof.Control Sys2Proof.Field Sys2Proof.ChaCha20
open Sys2Proof.Poly1305

/-! ### The message schedule (R253) -/

/-- The big-endian words of a string read from DBUF are read from DBUF. -/
theorem beWordAt_readBytes (m : Memory) (a : Nat) {n i : Nat} (hn : 4 * i + 4 ≤ n) :
    (beWordAt (m.readBytes a n) i).toNat = beNat (m.readBytes (a + 4 * i) 4) := by
  have hlt := leNat_lt (m.readBytes (a + 4 * i) 4).reverse
  rw [List.length_reverse, readBytes_length] at hlt
  rw [beWordAt, slice_readBytes m a hn, Nat.add_sub_cancel_left, BitVec.toNat_ofNat]
  exact Nat.mod_eq_of_lt hlt

/-- W[i + 16] is the word that R253 gives it from four words before it. -/
def FollowsRecurrence (w : Schedule) (i : Fin 48) : Prop :=
  w[i.val + 16] = shaSmallSigma1 w[i.val + 14] + w[i.val + 9] + shaSmallSigma0 w[i.val + 1] + w[i.val]

theorem scheduleStep_getElem_of_ne (w : Schedule) {i : Fin 48} {t : Nat} (ht : t < 64) (hne : i.val + 16 ≠ t) :
    (scheduleStep w i)[t] = w[t] := by
  rw [scheduleStep, Vector.getElem_set_ne _ _ hne]

theorem scheduleStep_followsRecurrence (w : Schedule) (i : Fin 48) :
    FollowsRecurrence (scheduleStep w i) i := by
  have hsame : ∀ t (_ : t < i.val + 16), (scheduleStep w i)[t] = w[t] := fun _ hlt =>
    scheduleStep_getElem_of_ne w _ hlt.ne'
  rw [FollowsRecurrence, hsame (i.val + 14) (by omega), hsame (i.val + 9) (by omega), hsame (i.val + 1) (by omega),
    hsame i.val (by omega), scheduleStep, Vector.getElem_set_self]

/-- Steps that write later words only leave a word as it is. -/
theorem foldl_scheduleStep_getElem {l : List (Fin 48)} (w : Schedule) {t : Nat} (ht : t < 64)
    (hlater : ∀ j ∈ l, t < j.val + 16) : (l.foldl scheduleStep w)[t] = w[t] := by
  induction l generalizing w with
  | nil => rfl
  | cons j l ih =>
    rw [List.foldl_cons, ih _ fun k hk => hlater k (List.mem_cons_of_mem _ hk)]
    exact scheduleStep_getElem_of_ne w ht (hlater j List.mem_cons_self).ne'

/-- A word reads words before it only, so later steps keep its recurrence. -/
theorem foldl_scheduleStep_followsRecurrence_of_lt {l : List (Fin 48)} {w : Schedule} {i : Fin 48}
    (hlater : ∀ j ∈ l, i < j) (h : FollowsRecurrence w i) : FollowsRecurrence (l.foldl scheduleStep w) i := by
  have hsame : ∀ t (_ : t ≤ i.val + 16), (l.foldl scheduleStep w)[t] = w[t] := fun t hle =>
    foldl_scheduleStep_getElem w _ fun j hj => by have := hlater j hj; omega
  rw [FollowsRecurrence, hsame _ (by omega), hsame _ (by omega), hsame _ (by omega), hsame _ (by omega),
    hsame _ (by omega)]
  exact h

/-- Steps in rising order give every word they write its recurrence. -/
theorem foldl_scheduleStep_followsRecurrence {l : List (Fin 48)} (hl : l.Pairwise (· < ·)) (w : Schedule)
    {i : Fin 48} (hi : i ∈ l) : FollowsRecurrence (l.foldl scheduleStep w) i := by
  induction l generalizing w with
  | nil => simp at hi
  | cons j l ih =>
    obtain ⟨hj, hl⟩ := List.pairwise_cons.mp hl
    rw [List.foldl_cons]
    obtain rfl | hi := List.mem_cons.mp hi
    · exact foldl_scheduleStep_followsRecurrence_of_lt hj (scheduleStep_followsRecurrence w i)
    · exact ih hl _ hi

theorem shaSchedule_followsRecurrence (b : List Byte) (i : Fin 48) : FollowsRecurrence (shaSchedule b) i :=
  foldl_scheduleStep_followsRecurrence (List.pairwise_lt_finRange 48) _ (List.mem_finRange i)

/-- The first sixteen words are those of the block. -/
theorem shaSchedule_getElem_of_lt (b : List Byte) {t : Nat} (ht : t < 16) :
    (shaSchedule b)[t] = beWordAt b t := by
  rw [shaSchedule, foldl_scheduleStep_getElem _ _ fun j _ => by omega]
  simp [ht]

/-! ### Whole blocks and the partial block (R258) -/

/-- What the whole 64-byte blocks of a string leave over: what `sha.update` keeps in PB. -/
def partialBlock (d : List Byte) : List Byte := d.drop (64 * (d.length / 64))

theorem partialBlock_length (d : List Byte) : (partialBlock d).length = d.length % 64 := by
  rw [partialBlock, List.length_drop]
  omega

/-- What is left over of a string in two parts is what is left over from the first part's on. -/
theorem partialBlock_append (as bs : List Byte) :
    partialBlock (as ++ bs) = partialBlock (partialBlock as ++ bs) := by
  have hwhole : 64 * (as.length / 64) ≤ as.length := Nat.mul_div_le _ _
  have hcount : (as.length + bs.length) / 64 = as.length / 64 + (as.length % 64 + bs.length) / 64 := by omega
  have hlen : (partialBlock as ++ bs).length = as.length % 64 + bs.length := by
    rw [List.length_append, partialBlock_length]
  rw [partialBlock, partialBlock, hlen, partialBlock, List.length_append, hcount, Nat.mul_add, ← List.drop_drop,
    List.drop_append_of_le_length hwhole]

/-- A string in two parts is absorbed from what the first part leaves over on. -/
theorem shaAbsorb_append_partialBlock (h : Hash) (as bs : List Byte) :
    shaAbsorb h (as ++ bs) = shaAbsorb (shaAbsorb h as) (partialBlock as ++ bs) := by
  have hblocks : (as.take (64 * (as.length / 64))).length % 64 = 0 := by
    rw [List.length_take]
    omega
  conv_lhs => rw [← List.take_append_drop (64 * (as.length / 64)) as, List.append_assoc]
  rw [shaAbsorb_append _ _ _ hblocks, shaAbsorb_take, partialBlock]

/-- The blocks absorbed, by number. -/
theorem shaAbsorb_eq_foldl_range (h : Hash) (d : List Byte) :
    shaAbsorb h d =
      (List.range (d.length / 64)).foldl (fun h j => shaCompress h ((d.drop (64 * j)).take 64)) h := by
  rw [shaAbsorb, foldl_chunks]

section

variable {b : List Byte} (hlen : b.length = 64)

include hlen

theorem shaAbsorb_of_length (h : Hash) : shaAbsorb h b = shaCompress h b := by
  simp [shaAbsorb, chunks, hlen, List.take_of_length_le]

theorem partialBlock_of_length : partialBlock b = [] := by
  simp [partialBlock, hlen]

end

/-! ### The padding and the digest (R256) -/

/-- The padding with the only number of zeros that fills the block. -/
theorem shaPadding_eq {l k : Nat} (bits : Nat) (hk : k < 64) (hfill : (l + 1 + k + 8) % 64 = 0) :
    shaPadding l bits = [0x80#8] ++ List.replicate k 0#8 ++ beBytes 8 bits := by
  obtain ⟨hlt, hspec⟩ := shaPadZeros_spec l
  obtain rfl : k = shaPadZeros l := by omega
  rfl

/-- The padding depends only on what the whole blocks leave over. -/
theorem shaPadding_partialBlock (d : List Byte) (bits : Nat) :
    shaPadding (partialBlock d).length bits = shaPadding d.length bits := by
  obtain ⟨hlt, hspec⟩ := shaPadZeros_spec d.length
  refine shaPadding_eq bits hlt ?_
  rw [partialBlock_length]
  omega

/-- The words of a digest. -/
theorem beNat_slice_shaDigest (h : Hash) (i : Fin 8) :
    beNat (slice (shaDigest h) (4 * i.val) (4 * i.val + 4)) = h[i].toNat := by
  have hpieces : ∀ l ∈ h.toList.map fun w => beBytes 4 w.toNat, l.length = 4 := by simp
  rw [shaDigest, List.flatMap_def, slice_flatten hpieces (by simp)]
  simpa [beNat_beBytes] using h[i].isLt

/-- The words of a region that holds a digest. -/
theorem beNat_readBytes_of_shaDigest {m : Memory} {a : Nat} {h : Hash} (hread : m.readBytes a 32 = shaDigest h)
    (i : Fin 8) : beNat (m.readBytes (a + 4 * i.val) 4) = h[i].toNat := by
  rw [← beNat_slice_shaDigest, ← hread, slice_readBytes m a (by omega), Nat.add_sub_cancel_left]

/-! ### The commands -/

/-- What `sha.init` leaves (R257). -/
def started (s : State) : State :=
  { s.completedWith .ok with
    sh := shaH0, blen := 0#64, pb := [], w := Vector.replicate 64 0#32, wv := Vector.replicate 8 0#32
    flags := { s.flags with shaActive := true } }

/-- What `sha.update` leaves of the string it reads (R258). -/
def updated (s : State) (m : List Byte) : State :=
  { s.completedWith .ok with
    sh := shaAbsorb s.sh (s.pb ++ m), pb := partialBlock (s.pb ++ m)
    blen := s.blen + BitVec.ofNat 64 (8 * m.length)
    w := Vector.replicate 64 0#32, wv := Vector.replicate 8 0#32 }

/-- Only the hash context differs after `sha.update`; BLEN counts the bytes read. -/
theorem updated_eq (s : State) {m : List Byte} {n : Nat} (hlen : m.length = n) :
    updated s m = { s.completedWith .ok with
      sh := (updated s m).sh, pb := (updated s m).pb, blen := s.blen + BitVec.ofNat 64 (8 * n)
      w := Vector.replicate 64 0#32, wv := Vector.replicate 8 0#32 } := by
  subst hlen
  rfl

/-- R258, R264: a string in two parts leaves what the two, one after the other, leave. -/
theorem updated_append (s : State) (m m' : List Byte) :
    updated s (m ++ m') = updated (updated s m) m' := by
  rw [updated, ← List.append_assoc, shaAbsorb_append_partialBlock, partialBlock_append (s.pb ++ m),
    List.length_append, Nat.mul_add, BitVec.ofNat_add, ← BitVec.add_assoc]
  rfl

/-- The digest of what the hash context holds (R256, R259). -/
def contextDigest (s : State) : List Byte :=
  shaDigest (shaAbsorb s.sh (s.pb ++ shaPadding s.pb.length s.blen.toNat))

theorem contextDigest_length (s : State) : (contextDigest s).length = 32 := shaDigest_length _

/-- A context started and updated with a message holds the message's hash. -/
theorem contextDigest_updated_started (s : State) (m : List Byte) :
    contextDigest (updated (started s) m) = sha256 m := by
  have hblen : (updated (started s) m).blen.toNat = 8 * m.length % 2 ^ 64 := by
    rw [updated, started, BitVec.zero_add, BitVec.toNat_ofNat]
  have hsh : (updated (started s) m).sh = shaAbsorb shaH0 m := rfl
  have hpb : (updated (started s) m).pb = partialBlock m := rfl
  rw [contextDigest, hsh, hpb, hblen, shaPadding_partialBlock, ← shaAbsorb_append_partialBlock, sha256]

/-- What `sha.final` leaves: the digest in DBUF, and no hash context (R259). It takes any string, so that the lemmas
about it never compute a digest. -/
def finished (s : State) (digest : List Byte) : State :=
  { s.memWrite (s.arg 0) digest with
    sh := Vector.replicate 8 0#32, blen := 0#64, pb := [], w := Vector.replicate 64 0#32
    wv := Vector.replicate 8 0#32, flags := { s.flags with shaActive := false } }.complete .ok

/-- Only DBUF, the hash context and SHA_ACTIVE differ after `sha.final`. -/
theorem finished_eq (s : State) (digest : List Byte) :
    finished s digest = { s.completedWith .ok with
      dbuf := (finished s digest).dbuf, sh := Vector.replicate 8 0#32, blen := 0#64, pb := []
      w := Vector.replicate 64 0#32, wv := Vector.replicate 8 0#32
      flags := { s.flags with shaActive := false } } := rfl

/-- The digest's region holds it, and no byte outside it differs. -/
theorem finished_region {s : State} {digest : List Byte} (hwf : s.dbuf.wf) (hlen : digest.length = 32) :
    (finished s digest).dbuf.readBytes (s.arg 0) 32 = digest ∧
      s.dbuf.SameOutside (finished s digest).dbuf (s.arg 0) 32 :=
  ⟨readBytes_writeBytes_of_length hwf _ hlen, sameOutside_writeBytes_of_length hwf _ hlen⟩

/-- What a command that writes W and WV only leaves (R260, R261). -/
def roundStageAt (s : State) (w : Schedule) (v : Hash) : State := { s.completedWith .ok with w := w, wv := v }

theorem exec_shaInit (s : State) : exec .shaInit s = .next (started s) :=
  runCommand_of_pass (checkFailure_of_no_checks (i := .shaInit) (s := s) rfl)

section

variable {s : State} (hactive : s.flags.shaActive = true)

include hactive

theorem exec_shaUpdate_of_fits (hfits : Fits (s.arg 0) (s.arg 1) s.dbufSize) :
    exec .shaUpdate s = .next (updated s (s.dbuf.readBytes (s.arg 0) (s.arg 1))) := by
  rw [updated, readBytes_length]
  exact runCommand_of_pass ((checks_shaUpdate s).mpr ⟨hfits, hactive⟩)

/-- The same with the ARGs that the host writes before the command. -/
theorem exec_shaUpdate_withArgs {a : Vector Word 8} (hfits : Fits a[0].toNat a[1].toNat s.dbufSize) :
    exec .shaUpdate { s with args := a } =
      .next { updated s (s.dbuf.readBytes a[0].toNat a[1].toNat) with args := a } :=
  exec_shaUpdate_of_fits (s := { s with args := a }) hactive hfits

theorem exec_shaFinal_of_fits (hfits : s.arg 0 + 32 ≤ s.dbufSize) :
    exec .shaFinal s = .next (finished s (contextDigest s)) :=
  runCommand_of_pass ((checks_shaFinal s).mpr ⟨hfits, hactive⟩)

theorem exec_shaLoadblk_of_fits (hfits : s.arg 0 + 64 ≤ s.dbufSize) :
    exec .shaLoadblk s = .next (roundStageAt s (shaSchedule (s.dbuf.readBytes (s.arg 0) 64)) s.sh) :=
  runCommand_of_pass ((checks_shaLoadblk s).mpr ⟨hfits, hactive⟩)

theorem exec_shaRound_of_lt {n : Fin 256} (hn : n.val < 64) :
    exec (.shaRound n) s = .next (roundStageAt s s.w (shaRound s.wv ⟨n.val, hn⟩ s.w)) := by
  have hmod : (⟨n.val % 64, Nat.mod_lt _ (by decide)⟩ : Fin 64) = ⟨n.val, hn⟩ := Fin.ext (Nat.mod_eq_of_lt hn)
  rw [← hmod]
  exact runCommand_of_pass ((checks_shaRound s n).mpr ⟨hn, hactive⟩)

theorem exec_shaFold_of_active :
    exec .shaFold s = .next { s.completedWith .ok with sh := hashAdd s.sh s.wv } :=
  runCommand_of_pass ((checks_shaFold s).mpr hactive)

end

theorem hashAdd_getElem (h v : Hash) (i : Fin 8) : (hashAdd h v)[i] = h[i] + v[i] := by
  simp [hashAdd]

/-- Settles O50: the table of K, and each stage command's formula. -/
theorem shaStageFormulas : Obligations.ShaStageFormulas :=
  ⟨rfl, fun s => ⟨exec_shaInit s,
    fun hactive => ⟨_, exec_shaFold_of_active hactive, rfl, hashAdd_getElem _ _⟩,
    fun _ hn hactive => ⟨_, exec_shaRound_of_lt hactive hn, rfl, rfl⟩⟩⟩

/-- Settles O51: the words of `shaSchedule`, read from DBUF or by the recurrence. -/
theorem loadblkFillsTheSchedule : Obligations.LoadblkFillsTheSchedule := by
  intro s hactive hfits
  refine ⟨_, exec_shaLoadblk_of_fits hactive hfits, rfl, fun i => ?words, shaSchedule_followsRecurrence _⟩
  exact (congrArg BitVec.toNat (shaSchedule_getElem_of_lt _ i.isLt)).trans
    (beWordAt_readBytes _ _ (by omega))

/-- Settles O55: the padding's zeros are those that fill the block, and the digest stored is the only byte
change. -/
theorem shaFinalPadsAndClears : Obligations.ShaFinalPadsAndClears := by
  intro s hactive hwf hfits
  obtain ⟨hread, houtside⟩ := finished_region hwf (contextDigest_length s)
  refine ⟨_, exec_shaFinal_of_fits hactive hfits, finished_eq s _, fun k hk hfill i => ?word, houtside⟩
  rw [← shaAbsorb_eq_foldl_range, List.append_assoc s.pb, List.append_assoc s.pb, ← shaPadding_eq _ hk hfill]
  exact beNat_readBytes_of_shaDigest hread i

/-! ### The stage commands, one after another (R255, R265) -/

section

variable {s : State} (hactive : s.flags.shaActive = true)

include hactive

/-- Rounds after one another, with the same ARGs. -/
theorem runSeq_shaRounds (rest : List (Vector Word 8 × Instr)) (l : List (Fin 64)) (w : Schedule) (v : Hash) :
    runSeq ((l.map fun n => (s.args, .shaRound (n.castLE (by decide)))) ++ rest) (roundStageAt s w v) =
      runSeq rest (roundStageAt s w (l.foldl (fun v n => shaRound v n w) v)) := by
  induction l generalizing v with
  | nil => rfl
  | cons n l ih =>
    exact (runSeq_cons (exec_shaRound_of_lt (s := roundStageAt s w v) hactive n.isLt)).trans (ih _)

/-- Rounds, then `sha.fold`. -/
theorem runSeq_shaRounds_shaFold (l : List (Fin 64)) (w : Schedule) (v : Hash) :
    ∃ t, runSeq ((l.map fun n => (s.args, .shaRound (n.castLE (by decide)))) ++ [(s.args, .shaFold)])
        (roundStageAt s w v) = .next t ∧
      t.sh = hashAdd s.sh (l.foldl (fun v n => shaRound v n w) v) ∧ t.blen = s.blen ∧ t.pb = s.pb := by
  rw [runSeq_shaRounds hactive]
  exact ⟨_, runSeq_cons (exec_shaFold_of_active
    (s := roundStageAt s w (l.foldl (fun v n => shaRound v n w) v)) hactive), rfl, rfl, rfl⟩

end

/-- R265: `sha.update` of one block with PB empty. -/
theorem updated_of_block {s : State} {b : List Byte} (hempty : s.pb = []) (hlen : b.length = 64) :
    (updated s b).sh = shaCompress s.sh b ∧ (updated s b).pb = [] ∧ (updated s b).blen = s.blen + 512#64 := by
  rw [updated, hempty, List.nil_append, shaAbsorb_of_length hlen, partialBlock_of_length hlen, hlen]
  exact ⟨rfl, rfl, rfl⟩

/-- Settles O52: both ways compress the one block. -/
theorem stagedCompressionIsCompress : Obligations.StagedCompressionIsCompress := by
  intro s a hactive hfits
  obtain ⟨t, hrun, hsh, hblen, hpb⟩ := runSeq_shaRounds_shaFold hactive (List.finRange 64)
    (shaSchedule (s.dbuf.readBytes (s.arg 0) 64)) s.sh
  rw [← shaRounds, ← shaCompress] at hsh
  refine ⟨t, (runSeq_cons (exec_shaLoadblk_of_fits hactive hfits)).trans hrun, hsh, hblen, hpb,
    fun hempty haddr hlen => ?update⟩
  have hread : s.dbuf.readBytes a[0].toNat a[1].toNat = s.dbuf.readBytes (s.arg 0) 64 := by
    rw [hlen, haddr]
    rfl
  have hupdate := exec_shaUpdate_withArgs hactive (a := a) (.inr (hlen ▸ haddr ▸ hfits))
  obtain ⟨hsh', hpb', hblen'⟩ := updated_of_block hempty (readBytes_length s.dbuf (s.arg 0) 64)
  rw [hread] at hupdate
  exact ⟨_, hupdate, hsh'.trans hsh.symm, hpb', hblen', rfl, rfl⟩

/-! ### The streaming commands, one after another (R258, R263, R264) -/

/-- Settles O53: the second `sha.update` goes on from what the first keeps in PB. -/
theorem shaUpdateSplits : Obligations.ShaUpdateSplits := by
  intro s a b hactive hfits haddr hnext hsum
  refine ⟨_, exec_shaUpdate_of_fits hactive hfits, updated_eq s (readBytes_length _ _ _),
    ⟨shaAbsorb_eq_foldl_range _ _, rfl⟩, ?split⟩
  have hfrom : a[0].toNat = s.arg 0 := congrArg BitVec.toNat haddr
  rw [← hfrom, ← hsum] at hfits ⊢
  obtain ⟨hfirst, hrest⟩ := fits_parts hfits
  rw [hnext] at hrest
  rw [readBytes_add, hnext, updated_append]
  exact (runSeq_cons (exec_shaUpdate_withArgs hactive hfirst)).trans <|
    runSeq_cons (exec_shaUpdate_withArgs
      (s := updated s (s.dbuf.readBytes a[0].toNat a[1].toNat)) hactive hrest)

/-- `sha.init`, `sha.update` and `sha.final` store the hash of the message and leave no hash context. -/
theorem runSeq_shaInit_shaUpdate_shaFinal {s : State} {a b : Vector Word 8}
    (hmsg : Fits a[0].toNat a[1].toNat s.dbufSize) (hout : b[0].toNat + 32 ≤ s.dbufSize) :
    runSeq [(a, .shaInit), (a, .shaUpdate), (b, .shaFinal)] s =
      .next (finished { s with args := b } (sha256 (s.dbuf.readBytes a[0].toNat a[1].toNat))) := by
  have hinit : exec .shaInit { s with args := a } = .next { started s with args := a } := exec_shaInit _
  have hupdate := exec_shaUpdate_withArgs (s := started s) rfl hmsg
  have hfinal := exec_shaFinal_of_fits
    (s := { updated (started s) (s.dbuf.readBytes a[0].toNat a[1].toNat) with args := b }) rfl hout
  rw [← contextDigest_updated_started s]
  exact (runSeq_cons hinit).trans <| (runSeq_cons hupdate).trans <| runSeq_cons hfinal

/-- Settles O54: the context that `sha.init` and `sha.update` leave holds the hash of the message, and both ways
store it at one place. -/
theorem streamedHashIsOneShotHash : Obligations.StreamedHashIsOneShotHash := by
  intro s a b hwf hmsg hout hapart haddr hlen hdest
  obtain ⟨t, hexec, hframe, hwritten⟩ := exec_of_memWrite_dbuf rfl ((checks_sha256 s).mpr ⟨hmsg, hout, hapart⟩)
  have hfrom : a[0].toNat = s.arg 0 := congrArg BitVec.toNat haddr
  have hcount : a[1].toNat = s.arg 1 := congrArg BitVec.toNat hlen
  have hto : b[0].toNat = s.arg 2 := congrArg BitVec.toNat hdest
  have hrun := runSeq_shaInit_shaUpdate_shaFinal (a := a) (b := b) (hfrom ▸ hcount ▸ hmsg) (hto ▸ hout)
  rw [hfrom, hcount] at hrun
  refine ⟨t, _, hexec, hframe, ?outside, ?digest, hrun, ?context⟩
  case outside => exact hwritten ▸ sameOutside_writeBytes_of_length hwf _ (sha256_length _)
  case digest => exact hwritten ▸ readBytes_writeBytes_of_length hwf _ (sha256_length _)
  case context =>
    rw [hwritten, ← hto]
    exact finished_eq _ _

end Sys2Proof.Sha256
end

section
/-! PROOF. PRK is confined (10_state.md R32, R44; 47_hmac_hkdf.md R278): no check looks at it, and no body but that of
`hkdf.expand` reads it. -/

namespace Sys2Proof.PrkConfinement

open Sys2Proof.Machine Sys2Proof.Laws Sys2Proof.OneShot

/-- The state with another PRK. -/
def withPrk (s : State) (k : Vector Byte 32) : State := { s with prk := k }

section

variable {i : Instr} {s : State} (k : Vector Byte 32)

/-- The checks look at the ARGs, DBUF_SIZE and the flags only. -/
theorem checkFailure_withPrk : checkFailure i (withPrk s k) = checkFailure i s := by
  have hchecks : commandChecks i (withPrk s k) = commandChecks i s := by cases i <;> rfl
  exact congrArg (·.failure s.dbufSize) hchecks

/-- `fe.store`, `cc.block` and `p.final` store a string that they compute from registers other than PRK; the
string is named before the two bodies are compared, so that it is not computed. -/
theorem exec_store_withPrk_body (hi : i = .ccBlock ∨ i = .pFinal ∨ ∃ b, i = .feStore b) :
    ∃ b, exec i s = runCommand i s b ∧ exec i (withPrk s k) = runCommand i (withPrk s k) (withPrk b k) := by
  have hfe : (withPrk s k).fe = s.fe := rfl
  have hs0 : (withPrk s k).s0 = s.s0 := rfl
  have hph : (withPrk s k).ph = s.ph := rfl
  have hps : (withPrk s k).ps = s.ps := rfl
  obtain rfl | rfl | ⟨b, rfl⟩ := hi
  · simp only [exec, execCcBlock, hs0]
    generalize chaChaBlock s.s0 = block
    exact ⟨_, rfl, rfl⟩
  · simp only [exec, execPFinal, hph, hps]
    generalize polyTag s.ph s.ps = tag
    exact ⟨_, rfl, rfl⟩
  · simp only [exec, execFeStore, hfe]
    generalize toBytes s.fe[b] = bs
    exact ⟨_, rfl, rfl⟩

/-- Two states that differ in PRK run one body, but for what it leaves in PRK: `zeroize` and `hkdf.extract` set it,
and the others keep it. -/
theorem exec_withPrk_body (hi : i ≠ .hkdfExpand) :
    ∃ b e k', exec i s = runJudged i s (b, e) ∧
      exec i (withPrk s k) = runJudged i (withPrk s k) (withPrk b k', e) := by
  by_cases hone : i ∈ oneShots
  · obtain ⟨d, r, e, hs, hu, -⟩ := exec_oneShot_body (s := s) (u := withPrk s k) hone rfl rfl rfl
    exact ⟨_, e, k, hs, hu⟩
  by_cases hstore : i = .ccBlock ∨ i = .pFinal ∨ ∃ b, i = .feStore b
  · obtain ⟨b, hs, hu⟩ := exec_store_withPrk_body (s := s) k hstore
    exact ⟨b, .ok, k, hs, hu⟩
  cases i
  case hkdfExpand => exact absurd rfl hi
  case x25519 | xKeygen | pMac | aeadEnc | aeadDec | sha256 | hmac | hkdf => simp at hone
  case ccBlock | pFinal | feStore => simp at hstore
  case zeroize => exact ⟨_, .ok, Vector.replicate 32 0#8, rfl, rfl⟩
  case hkdfExtract => exact ⟨_, .ok, _, rfl, rfl⟩
  all_goals exact ⟨_, .ok, k, rfl, rfl⟩

/-- Two states that differ in PRK run every command but `hkdf.expand` to states that differ at most in PRK. -/
theorem exec_withPrk (hi : i ≠ .hkdfExpand) :
    ∃ t k', exec i s = .next t ∧ exec i (withPrk s k) = .next (withPrk t k') := by
  cases hc : checkFailure i s with
  | some e => exact ⟨_, k, exec_of_failure hc, exec_of_failure ((checkFailure_withPrk k).trans hc)⟩
  | none =>
    obtain ⟨b, e, k', hs, hu⟩ := exec_withPrk_body k hi
    exact ⟨_, k', hs.trans (runJudged_of_pass hc),
      hu.trans (runJudged_of_pass ((checkFailure_withPrk k).trans hc))⟩

end

/-- Settles O19: the run with the other PRK is the same by `exec_withPrk`. -/
theorem prkReachesNothingButExpand : Obligations.PrkReachesNothingButExpand := by
  intro i s t k hi ht
  obtain ⟨t', k', hs, hu⟩ := exec_withPrk (s := s) k hi
  obtain rfl : t' = t := by simpa [hs] using ht
  exact ⟨_, hu, rfl⟩

end Sys2Proof.PrkConfinement
end

section
/-! PROOF. HMAC and HKDF (47_hmac_hkdf.md R270 to R276): the padded key and the blocks T(i) as strings, what each
command leaves, and `hkdf` in its two stages. -/

namespace Sys2Proof.HmacHkdf

open Sys2Proof.Machine Sys2Proof.Laws Sys2Proof.Field Sys2Proof.ChaCha20 Sys2Proof.Poly1305

/-! ### The strings (R270, R272, R273) -/

/-- HMAC with the padded key spelled out, as the key's length is given (R270). -/
theorem hmac_eq {k : List Byte} {n : Nat} (hk : k.length = n) (m : List Byte) :
    hmac k m =
      let k0 := if 64 < n then sha256 k ++ List.replicate 32 0#8 else k ++ List.replicate (64 - n) 0#8
      sha256 (k0.map (· ^^^ 0x5c#8) ++ sha256 (k0.map (· ^^^ 0x36#8) ++ m)) := by
  subst hk
  rfl

/-- Extract with the zeros for an empty salt spelled out, as the salt's length is given (R272). -/
theorem hkdfExtract_eq {salt : List Byte} {n : Nat} (hsalt : salt.length = n) (ikm : List Byte) :
    hkdfExtract salt ikm = hmac (if n = 0 then List.replicate 32 0#8 else salt) ikm := by
  subst hsalt
  rfl

/-- T(i), with T(0) the empty string (R273). -/
def expandBlock (prk info : List Byte) : Nat → List Byte
  | 0 => []
  | i + 1 => hmac prk (expandBlock prk info i ++ info ++ [BitVec.ofNat 8 (i + 1)])

theorem expandBlock_succ_length (prk info : List Byte) (i : Nat) :
    (expandBlock prk info (i + 1)).length = 32 := hmac_length _ _

/-- Byte `j` of T(i+1) ‖ … ‖ T(i+n) is byte `j` mod 32 of the block it falls in. -/
theorem hkdfBlocks_getD (prk info : List Byte) {n i j : Nat} (hj : j < 32 * n) :
    (hkdfBlocks prk info n (i + 1) (expandBlock prk info i)).getD j 0#8 =
      (expandBlock prk info (i + j / 32 + 1)).getD (j % 32) 0#8 := by
  induction n generalizing i j with
  | zero => omega
  | succ n ih =>
    have hunfold : hkdfBlocks prk info (n + 1) (i + 1) (expandBlock prk info i) =
        expandBlock prk info (i + 1) ++
          hkdfBlocks prk info n (i + 1 + 1) (expandBlock prk info (i + 1)) := rfl
    rw [hunfold]
    obtain hlt | hge := Nat.lt_or_ge j 32
    · rw [List.getD_append _ _ _ _ ((expandBlock_succ_length prk info i).symm ▸ hlt), Nat.div_eq_of_lt hlt,
        Nat.mod_eq_of_lt hlt, Nat.add_zero]
    · obtain ⟨l, rfl⟩ := Nat.exists_eq_add_of_le hge
      rw [List.getD_append_right _ _ _ _ ((expandBlock_succ_length prk info i).symm ▸ hge),
        expandBlock_succ_length, Nat.add_sub_cancel_left, ih (by omega), Nat.add_mod_left,
        Nat.add_div_left l (by decide), Nat.add_right_comm i 1, Nat.add_assoc i]

/-- The bytes of the expanded key (R273). -/
theorem hkdfExpand_getD (prk info : List Byte) {l j : Nat} (hj : j < l) :
    (hkdfExpand prk info l).getD j 0#8 = (expandBlock prk info (j / 32 + 1)).getD (j % 32) 0#8 := by
  have hfit := ceilDiv_mul_ge l 32 (by decide)
  have hblocks := hkdfBlocks_getD prk info (i := 0) (hj.trans_le hfit)
  rw [Nat.zero_add (j / 32)] at hblocks
  rw [← hblocks, hkdfExpand, List.getD_eq_getElem?_getD, List.getElem?_take_of_lt hj,
    ← List.getD_eq_getElem?_getD]
  rfl

/-! ### The commands -/

/-- What `hkdf.extract` leaves (R274). It takes any PRK, so that the lemmas about it never compute one. -/
def extracted (s : State) (k : Vector Byte 32) : State :=
  { s.completedWith .ok with prk := k, flags := { s.flags with prkValid := true } }

/-- What `hkdf.expand` leaves: DBUF with the output in it, and no PRK (R275). It takes any DBUF, so that the lemmas
about it never compute an output. -/
def expanded (s : State) (m : Memory) : State :=
  { s.completedWith .ok with
    dbuf := m, prk := Vector.replicate 32 0#8, flags := { s.flags with prkValid := false } }

/-- What the two stages leave, one after the other. -/
theorem expanded_extracted (s : State) (k : Vector Byte 32) (a b : Vector Word 8) (m : Memory) :
    expanded { extracted { s with args := a } k with args := b } m = { s.completedWith .ok with
      dbuf := m, args := b, prk := Vector.replicate 32 0#8, flags := { s.flags with prkValid := false } } := rfl

/-- The PRK of the salt and the keying material that the ARGs of `hkdf.extract` name (R274). -/
def extractOf (m : Memory) (a : Vector Word 8) : List Byte :=
  hkdfExtract (m.readBytes a[0].toNat a[1].toNat) (m.readBytes a[2].toNat a[3].toNat)

theorem extractOf_length (m : Memory) (a : Vector Word 8) : (extractOf m a).length = 32 := hkdfExtract_length _ _

/-- DBUF with a PRK expanded as the ARGs of `hkdf.expand` say (R275). -/
def expandInto (m : Memory) (prk : List Byte) (a : Vector Word 8) : Memory :=
  m.writeBytes a[2].toNat (hkdfExpand prk (m.readBytes a[0].toNat a[1].toNat) a[3].toNat)

section

variable {s : State}

theorem exec_hkdfExtract_of_fits (h0 : Fits (s.arg 0) (s.arg 1) s.dbufSize)
    (h1 : Fits (s.arg 2) (s.arg 3) s.dbufSize) :
    exec .hkdfExtract s = .next (extracted s (toReg32 (extractOf s.dbuf s.args))) :=
  runCommand_of_pass ((checks_hkdfExtract s).mpr ⟨h0, h1⟩)

/-- The same with the ARGs that the host writes before the command. -/
theorem exec_hkdfExtract_withArgs {a : Vector Word 8} (h0 : Fits a[0].toNat a[1].toNat s.dbufSize)
    (h1 : Fits a[2].toNat a[3].toNat s.dbufSize) :
    ∃ k : Vector Byte 32, k.toList = extractOf s.dbuf a ∧
      exec .hkdfExtract { s with args := a } = .next (extracted { s with args := a } k) :=
  ⟨_, toReg32_toList _ (extractOf_length _ _), exec_hkdfExtract_of_fits (s := { s with args := a }) h0 h1⟩

theorem exec_hkdfExpand_of_pass {prk : List Byte} (hpass : checkFailure .hkdfExpand s = none)
    (hprk : s.prk.toList = prk) :
    exec .hkdfExpand s = .next (expanded s (expandInto s.dbuf prk s.args)) := by
  subst hprk
  exact runCommand_of_pass hpass

/-- R275: the PRK is used once; a second `hkdf.expand` misses the flag. -/
theorem exec_hkdfExpand_expanded (hpass : checkFailure .hkdfExpand s = none) (m : Memory) :
    exec .hkdfExpand (expanded s m) = .next ((expanded s m).completedWith .sequence) := by
  obtain ⟨hlen, hinfo, hout, hapart, -⟩ := (checks_hkdfExpand s).mp hpass
  exact MissingFlag.exec_of_missing_flag ((checks_hkdfExpand _).mpr ⟨hlen, hinfo, hout, hapart, rfl⟩) rfl

end

/-- Settles O56: the nested hash of the two strings is the only byte change. -/
theorem hmacIsNestedHash : Obligations.HmacIsNestedHash := by
  intro s hwf hkey hmsg hout hkeyApart hmsgApart
  obtain ⟨t, hexec, hframe, hread, houtside⟩ := exec_of_memWrite hwf rfl
    ((checks_hmac s).mpr ⟨hkey, hmsg, hout, hkeyApart, hmsgApart⟩) (hmac_length _ _)
  exact ⟨t, hexec, hframe, ⟨hread, hread.trans (hmac_eq (readBytes_length _ _ _) _)⟩, houtside⟩

/-- Settles O57: PRK holds the 32 bytes extracted. -/
theorem extractSetsPrk : Obligations.ExtractSetsPrk := by
  intro s hsalt hikm
  refine ⟨_, exec_hkdfExtract_of_fits hsalt hikm, rfl, ?_⟩
  exact (toReg32_toList _ (extractOf_length _ _)).trans (hkdfExtract_eq (readBytes_length _ _ _) _)

/-- Settles O58: the blocks are `expandBlock`'s. -/
theorem expandWritesItsBlocks : Obligations.ExpandWritesItsBlocks := by
  intro s hvalid hwf hlen hinfo hout hapart
  have hpass := (checks_hkdfExpand s).mpr ⟨hlen, hinfo, hout, hapart, hvalid⟩
  refine ⟨_, exec_hkdfExpand_of_pass hpass rfl, rfl,
    ⟨expandBlock s.prk.toList (s.dbuf.readBytes (s.arg 0) (s.arg 1)), rfl, fun _ => rfl, fun j hj => ?_⟩,
    sameOutside_writeBytes_of_length hwf _ (hkdfExpand_length _ _ _)⟩
  exact (holds_writeBytes hwf _ _ j ((hkdfExpand_length _ _ _).symm ▸ hj)).trans (hkdfExpand_getD _ _ hj)

/-! ### The two stages (R276) -/

/-- R276: `hkdf` stores the expansion of what it extracts and changes nothing else. -/
theorem exec_hkdf_of_pass {s : State} (hpass : checkFailure .hkdf s = none) :
    ∃ t, exec .hkdf s = .next t ∧ t = { s.completedWith .ok with dbuf := t.dbuf } ∧
      t.dbuf = s.dbuf.writeBytes (s.arg 6) (hkdfExpand
        (hkdfExtract (s.dbuf.readBytes (s.arg 2) (s.arg 3)) (s.dbuf.readBytes (s.arg 0) (s.arg 1)))
        (s.dbuf.readBytes (s.arg 4) (s.arg 5)) (s.arg 7)) :=
  exec_of_memWrite_dbuf rfl hpass

/-- `hkdf.extract` then `hkdf.expand`, on regions that the checks allow, store the expansion of what the first
extracts, and the PRK cannot be used again. -/
theorem runSeq_hkdfExtract_hkdfExpand {s : State} {a b : Vector Word 8}
    (hsalt : Fits a[0].toNat a[1].toNat s.dbufSize) (hikm : Fits a[2].toNat a[3].toNat s.dbufSize)
    (hlen : b[3].toNat ≤ 8160) (hinfo : Fits b[0].toNat b[1].toNat s.dbufSize)
    (hout : Fits b[2].toNat b[3].toNat s.dbufSize)
    (hapart : Apart b[0].toNat b[1].toNat b[2].toNat b[3].toNat) :
    ∃ u, runSeq [(a, .hkdfExtract), (b, .hkdfExpand)] s = .next u ∧
      u = { s.completedWith .ok with
        dbuf := expandInto s.dbuf (extractOf s.dbuf a) b, args := b
        prk := Vector.replicate 32 0#8, flags := { s.flags with prkValid := false } } ∧
      exec .hkdfExpand u = .next (u.completedWith .sequence) := by
  obtain ⟨k, hk, hextract⟩ := exec_hkdfExtract_withArgs hsalt hikm
  have hpass : checkFailure .hkdfExpand { extracted { s with args := a } k with args := b } = none :=
    (checks_hkdfExpand _).mpr ⟨hlen, hinfo, hout, hapart, rfl⟩
  have hexpand := exec_hkdfExpand_of_pass hpass hk
  exact ⟨_, (runSeq_cons hextract).trans (runSeq_cons hexpand), expanded_extracted _ _ _ _ _,
    exec_hkdfExpand_expanded hpass _⟩

/-- Settles O59: both ways store one expansion at one place. -/
theorem stagedHkdfIsOneShotHkdf : Obligations.StagedHkdfIsOneShotHkdf := by
  intro s a b hwf hlen hikm hsalt hinfo hout hikmApart hsaltApart hinfoApart ha0 ha1 ha2 ha3 hb0 hb1 hb2 hb3
  obtain ⟨t, hexec, hframe, hwritten⟩ := exec_hkdf_of_pass
    ((checks_hkdf s).mpr ⟨hlen, hikm, hsalt, hinfo, hout, hikmApart, hsaltApart, hinfoApart⟩)
  obtain ⟨u, hrun, hu, hagain⟩ := runSeq_hkdfExtract_hkdfExpand (s := s) (a := a) (b := b)
    (by rw [ha0, ha1]; exact hsalt) (by rw [ha2, ha3]; exact hikm) (by rw [hb3]; exact hlen)
    (by rw [hb0, hb1]; exact hinfo) (by rw [hb2, hb3]; exact hout)
    (by rw [hb0, hb1, hb2, hb3]; exact hinfoApart)
  have hsame : expandInto s.dbuf (extractOf s.dbuf a) b = t.dbuf := by
    rw [hwritten, expandInto, extractOf, ha0, ha1, ha2, ha3, hb0, hb1, hb2, hb3]
    rfl
  refine ⟨t, u, hexec, hframe, ?outside, hrun, hsame ▸ hu, hagain⟩
  exact hwritten ▸ sameOutside_writeBytes_of_length hwf _ (hkdfExpand_length _ _ _)

end Sys2Proof.HmacHkdf
end

section
/-! PROOF. Error codes (60_exceptions.md R301 to R307): which check gives which code, and what a completion with an
error leaves. -/

namespace Sys2Proof.ErrorCodes

open Sys2Proof.Machine Sys2Proof.Laws

/-! ### The codes a command can complete with (R302) -/

/-- A broken overlap rule needs an output, and an input or a second output (R73). -/
theorem overlapBroken_regions {c : Checks} (h : c.overlapBroken = true) :
    c.outs ≠ [] ∧ (c.ins ≠ [] ∨ 1 < c.outs.length) := by
  have hne : c.outs ≠ [] := fun houts => by simp [Checks.overlapBroken, houts] at h
  refine ⟨hne, ?_⟩
  by_contra hfew
  obtain ⟨hins, hlen⟩ : c.ins = [] ∧ c.outs.length ≤ 1 := by simpa using hfew
  obtain ⟨q, houts⟩ := List.length_eq_one_iff.mp (le_antisymm hlen (List.length_pos_iff.mpr hne))
  simp [Checks.overlapBroken, hins, houts] at h

/-- Each code of a failed check says something of what was checked. -/
theorem failure_cases {c : Checks} {size : Nat} {e : ErrCode} (h : c.failure size = some e) :
    (e = .field ∧ c.fieldOk = false) ∨ (e = .length ∧ c.lengthOk = false) ∨
      (e = .bounds ∧ c.ins ++ c.outs ≠ []) ∨
      (e = .overlap ∧ c.outs ≠ [] ∧ (c.ins ≠ [] ∨ 1 < c.outs.length)) ∨
      (e = .sequence ∧ c.sequenceOk = false) := by
  unfold Checks.failure at h
  split_ifs at h with hfield hlength hbounds hoverlap hsequence
  all_goals obtain rfl := Option.some.inj h
  · exact .inl ⟨rfl, by simpa using hfield⟩
  · exact .inr (.inl ⟨rfl, by simpa using hlength⟩)
  · refine .inr (.inr (.inl ⟨rfl, fun hnone => ?_⟩))
    simp [Checks.inBounds, hnone] at hbounds
  · exact .inr (.inr (.inr (.inl ⟨rfl, overlapBroken_regions hoverlap⟩)))
  · exact .inr (.inr (.inr (.inr ⟨rfl, by simpa using hsequence⟩)))

section

variable {i : Instr} {s t : State}

/-- The code of a failed check is one of the command's row: the row names a check's code where the opcode map gives
the command something to check. -/
theorem mem_possibleCodes_of_failure {e : ErrCode} (h : checkFailure i s = some e) : e ∈ possibleCodes i := by
  obtain ⟨rfl, hc⟩ | ⟨rfl, hc⟩ | ⟨rfl, hc⟩ | ⟨rfl, hc⟩ | ⟨rfl, hc⟩ := failure_cases h
  all_goals cases i <;> simp [commandChecks, possibleCodes] at hc ⊢

theorem ok_mem_possibleCodes (i : Instr) : .ok ∈ possibleCodes i := by
  cases i <;> simp [possibleCodes]

/-- What a command can complete with: OK; E_AUTH, which is `aead.dec`'s and sets RESULT; or another code of its row,
which changes STATUS only. -/
theorem exec_code_cases (h : exec i s = .next t) :
    t.errCode = .ok ∨
      (i = .aeadDec ∧ t = { s.completedWith .auth with result := true }) ∨
      ∃ e ∈ possibleCodes i, e ≠ .auth ∧ t = s.completedWith e := by
  obtain ⟨e, hfail, rfl⟩ | hpass := exec_cases h
  · have hauth : e ≠ .auth := by
      obtain rfl | rfl | rfl | rfl | rfl := failure_code hfail <;> decide
    exact .inr (.inr ⟨e, mem_possibleCodes_of_failure hfail, hauth, rfl⟩)
  · obtain ⟨b, hexec, hcode, -⟩ := exec_shape i s
    obtain rfl : t = b.1.complete b.2 := by simpa [hexec, runJudged_of_pass hpass] using h.symm
    obtain hok | ⟨hi, rfl⟩ := hcode
    · exact .inl hok
    · exact .inr (.inl ⟨hi, rfl⟩)

end

/-- Settles O10, by the three things a command can complete with. -/
theorem errorsChangeOnlyStatus : Obligations.ErrorsChangeOnlyStatus := by
  intro i s t h
  obtain hok | ⟨rfl, rfl⟩ | ⟨e, he, hauth, rfl⟩ := exec_code_cases h
  · rw [hok]
    exact ⟨ok_mem_possibleCodes i, by simp, by simp⟩
  · exact ⟨by simp [possibleCodes], fun _ => rfl, fun _ hne => absurd rfl hne⟩
  · exact ⟨he, fun heq => absurd heq hauth, fun _ _ => rfl⟩

/-! ### The first checks (R305) -/

section

variable {i : Instr} {s : State}

/-- The field check stands first. -/
theorem exec_of_field_failure (hfield : (commandChecks i s).fieldOk = false) :
    exec i s = .next (s.completedWith .field) := by
  have hfailure : checkFailure i s = some .field := by simp [checkFailure, Checks.failure, hfield]
  exact exec_of_failure hfailure

/-- The length check stands before all others but the field check. -/
theorem exec_of_length_failure (hfield : (commandChecks i s).fieldOk = true)
    (hlength : (commandChecks i s).lengthOk = false) : exec i s = .next (s.completedWith .length) := by
  have hfailure : checkFailure i s = some .length := by simp [checkFailure, Checks.failure, hfield, hlength]
  exact exec_of_failure hfailure

end

/-- The word of `sha.round` with a round index out of range is no command (R103). -/
theorem decode_shaRound_out_of_range {n : Fin 256} (hn : 64 ≤ n.val) :
    decode (packWord 0x64 0 0 0 0 n) = .error .unusedField := by
  have hbad : (Instr.shaRound n).wellFormed = false := decide_eq_false (Nat.not_lt.mpr hn)
  rw [decode_packWord 0x64 (by decide)]
  simp [decodeFields, opcodeRow, hbad]

/-- Settles O11: the field and the length operands out of range, whatever the later checks say. -/
theorem fieldAndLengthAreCheckedFirst : Obligations.FieldAndLengthAreCheckedFirst := by
  intro s
  refine ⟨fun n hn => ⟨?round, decode_shaRound_out_of_range hn⟩, fun hlen => ?acc, fun hlen => ?expand,
    fun hlen => ?hkdf⟩
  case round => exact exec_of_field_failure (decide_eq_false (Nat.not_lt.mpr hn))
  case acc => exact exec_of_length_failure rfl (decide_eq_false (by omega))
  case expand => exact exec_of_length_failure rfl (decide_eq_false (Nat.not_le.mpr hlen))
  case hkdf => exact exec_of_length_failure rfl (decide_eq_false (Nat.not_le.mpr hlen))

end Sys2Proof.ErrorCodes
end

section
/-! PROOF. Acceptance, completion, reset and the interrupt output (60_exceptions.md R304, R306, R309;
70_reset_and_hazards.md R340 to R342). -/

namespace Sys2Proof.Events

open Sys2Proof.Machine Sys2Proof.Laws Sys2Proof.PortRegisters Sys2Proof.PortAccesses

section

variable {s : State}

/-! ### Completion (R306) -/

/-- The turn of a core that runs a command completes it, whether its word is a command or not. -/
theorem coreTurn_completes (hbusy : s.busy = true) :
    ∃ t, coreTurn s = .next t ∧ t.busy = false ∧ t.done = true ∧ t.args = s.args ∧ t.cmd = s.cmd ∧
      t.ie = s.ie ∧ t.hostErr = s.hostErr ∧ t.dbufSize = s.dbufSize ∧ t.rdata = s.rdata ∧
      t.schedule = s.schedule := by
  cases hd : decode s.cmd with
  | error e =>
    exact ⟨_, Encoding.coreTurn_of_decode_error hbusy hd, rfl, rfl, rfl, rfl, rfl, rfl, rfl, rfl, rfl⟩
  | ok i =>
    rw [Encoding.coreTurn_of_decode_ok hbusy hd]
    exact exec_completes i s

/-! ### CMD and CTRL writes (R304, R341) -/

/-- A full-strobe CMD write while idle is the acceptance event. -/
theorem portWrite_cmd_idle {addr : BitVec 32} (haddr : addr.toNat / 4 = 4) (w : BitVec 32)
    (hidle : s.busy = false) : s.portWrite addr w 0xF#4 = s.accept w :=
  (portWrite_full_strobe w haddr (by decide)).trans (if_neg (by simp [hidle]))

/-- Any other CMD write sets HOSTERR and nothing else (R87, R88). -/
theorem portWrite_cmd_dropped {addr : BitVec 32} (haddr : addr.toNat / 4 = 4) (w : BitVec 32) {strobe : BitVec 4}
    (h : s.busy = true ∨ strobe ≠ 0xF#4) : s.portWrite addr w strobe = s.setHostErr := by
  by_cases hstrobe : strobe = 0xF#4
  · subst hstrobe
    exact portWrite_cmd_arg_busy (h.resolve_right (not_not.mpr rfl)) (.inl haddr) w
  · exact portWrite_partial_strobe (by omega) w hstrobe

/-- A full-strobe CTRL write with SRST is the soft reset. -/
theorem portWrite_ctrl_srst {addr : BitVec 32} (haddr : addr.toNat / 4 = 2) {d : BitVec 32}
    (hsrst : d.getLsbD 1 = true) : s.portWrite addr d 0xF#4 = s.toReset :=
  (portWrite_full_strobe d haddr (by decide)).trans (if_pos hsrst)

/-! ### The interrupt output (R309) -/

theorem irq_of_done (hdone : s.done = true) : s.irq = s.ie := by
  rw [State.irq, hdone, Bool.and_true]

theorem irq_of_not_done (hdone : s.done = false) : s.irq = false := by
  rw [State.irq, hdone, Bool.and_false]

/-- A STATUS write that clears DONE lowers IRQ. -/
theorem irq_portWrite_status {d : BitVec 32} (hd : d.getLsbD 1 = true) :
    (s.portWrite 0xC#32 d 0xF#4).irq = false := by
  rw [portWrite_full_strobe (k := 3) d rfl (by decide)]
  exact irq_of_not_done ((congrArg State.done (writeRegister_status s d)).trans (if_pos hd))

/-- A CTRL write of IE = 0 masks IRQ and keeps DONE. -/
theorem irq_portWrite_ctrl {d : BitVec 32} (hsrst : d.getLsbD 1 = false) (hie : d.getLsbD 0 = false) :
    (s.portWrite 0x8#32 d 0xF#4).irq = false ∧ (s.portWrite 0x8#32 d 0xF#4).done = s.done := by
  have hwrite : s.portWrite 0x8#32 d 0xF#4 = { s with ie := false } := by
    rw [portWrite_full_strobe (k := 2) d rfl (by decide), ← hie]
    exact writeRegister_ctrl s hsrst
  rw [hwrite]
  exact ⟨rfl, rfl⟩

end

/-! ### The obligations -/

/-- Settles O6: the step is the core's turn, which completes the command. -/
theorem everyAcceptedCommandCompletes : Obligations.EveryAcceptedCommandCompletes := by
  intro s u hturn hbusy
  obtain ⟨t, ht, hidle, hdone, hargs, hcmd, hie, herr, hsize, hrdata, hsched⟩ :=
    coreTurn_completes ((coresTurn_busy hturn).trans hbusy)
  rw [step_coresTurn hturn]
  obtain ⟨-, rfl⟩ | ⟨rest, -, rfl⟩ := hturn <;>
    exact ⟨t, ht, hidle, hdone, hcmd, hargs, hie, herr, hsize, hrdata, hsched⟩

/-- Settles O5, by the two kinds of CMD write. -/
theorem cmdWriteAccepts : Obligations.CmdWriteAccepts := by
  intro s addr w strobe rest haddr hs
  rw [step_host hs, hostAccess_write]
  refine ⟨fun hidle hstrobe => ?accepted, fun h => ?dropped⟩
  case accepted =>
    subst hstrobe
    exact congrArg _ (portWrite_cmd_idle haddr w hidle)
  case dropped => exact congrArg _ (portWrite_cmd_dropped haddr w h)

/-- Settles O7: both reset sources answer `toReset`, which has the values of R45. -/
theorem resetPutsEveryStateAtItsValue : Obligations.ResetPutsEveryStateAtItsValue := by
  intro s addr data rest h
  obtain hs | ⟨haddr, hsrst, hs⟩ := h
  · exact step_hardReset hs
  · rw [step_host hs, hostAccess_write]
    exact congrArg _ (portWrite_ctrl_srst haddr hsrst)

/-- Settles O26: every completion sets DONE, and each of the other events clears DONE or IE, or keeps both. -/
theorem irqIsIeAndDone : Obligations.IrqIsIeAndDone := by
  intro s w
  refine ⟨rfl, fun i t h => ?completion, fun e => irq_of_done rfl, irq_of_not_done rfl, irq_of_not_done rfl,
    fun d hd => irq_portWrite_status hd, fun d hsrst hie => irq_portWrite_ctrl hsrst hie, rfl⟩
  obtain ⟨-, hdone, -, -, hie, -⟩ := Footprint.exec_hostRegisters h
  rw [irq_of_done hdone, hie]

end Sys2Proof.Events
end
